-- ==== Sys2Proof/Word.lean ====
section
/-! DEFINITION. The machine's words (00_scope.md R9): unsigned numbers of fixed width. -/

namespace Sys2Proof

/-- `u8`: the contents of a V register, of a timer and of a memory cell. -/
abbrev Byte := BitVec 8

/-- `u16`: an opcode, and the contents of I, PC and a stack entry. -/
abbrev Word := BitVec 16

/-- The index of a V register, "always a 4-bit nibble, 0–15" (10_state.md R20). -/
abbrev Reg := Fin 16

/-- A key code 0x0..0xF (10_state.md R30). -/
abbrev Key := Fin 16

end Sys2Proof
end

