-- ==== Sys2Proof/Syntax.lean ====
section
/-! DEFINITION. The instructions: one constructor per row of 30_encoding.md R74 with its fields, and one for the
unmapped words (R77). -/

namespace Sys2Proof

/-- An instruction (30_encoding.md R74, R77). `x` and `y` are register indices, `nn` an 8-bit and `n` a 4-bit
immediate, `nnn` a 12-bit address. -/
inductive Instr where
  /-- 00E0 -/
  | cls
  /-- 00EE -/
  | ret
  /-- 1NNN -/
  | jpNnn (nnn : BitVec 12)
  /-- 2NNN -/
  | callNnn (nnn : BitVec 12)
  /-- 3XNN -/
  | seVxNn (x : Reg) (nn : Byte)
  /-- 4XNN -/
  | sneVxNn (x : Reg) (nn : Byte)
  /-- 5XYN: bits 3..0 are not examined, so they are no field (R73; assumption log 14). -/
  | seVxVy (x y : Reg)
  /-- 6XNN -/
  | ldVxNn (x : Reg) (nn : Byte)
  /-- 7XNN -/
  | addVxNn (x : Reg) (nn : Byte)
  /-- 8XY0 -/
  | ldVxVy (x y : Reg)
  /-- 8XY1 -/
  | orVxVy (x y : Reg)
  /-- 8XY2 -/
  | andVxVy (x y : Reg)
  /-- 8XY3 -/
  | xorVxVy (x y : Reg)
  /-- 8XY4 -/
  | addVxVy (x y : Reg)
  /-- 8XY5 -/
  | subVxVy (x y : Reg)
  /-- 8XY6: Y is encoded but ignored (42_alu.md R148). -/
  | shrVxVy (x y : Reg)
  /-- 8XY7 -/
  | subnVxVy (x y : Reg)
  /-- 8XYE: Y is encoded but ignored (42_alu.md R150). -/
  | shlVxVy (x y : Reg)
  /-- 9XYN: bits 3..0 are not examined, so they are no field (R73; assumption log 14). -/
  | sneVxVy (x y : Reg)
  /-- ANNN -/
  | ldINnn (nnn : BitVec 12)
  /-- BNNN -/
  | jpV0Nnn (nnn : BitVec 12)
  /-- CXNN -/
  | rndVxNn (x : Reg) (nn : Byte)
  /-- DXYN -/
  | drwVxVyN (x y : Reg) (n : BitVec 4)
  /-- EX9E -/
  | skpVx (x : Reg)
  /-- EXA1 -/
  | sknpVx (x : Reg)
  /-- FX07 -/
  | ldVxDt (x : Reg)
  /-- FX0A -/
  | ldVxK (x : Reg)
  /-- FX15 -/
  | ldDtVx (x : Reg)
  /-- FX18 -/
  | ldStVx (x : Reg)
  /-- FX1E -/
  | addIVx (x : Reg)
  /-- FX29 -/
  | ldFVx (x : Reg)
  /-- FX33 -/
  | ldBVx (x : Reg)
  /-- FX55 -/
  | ldMemIVx (x : Reg)
  /-- FX65 -/
  | ldVxMemI (x : Reg)
  /-- Any word of R75: a counted no-op. One constructor for the ten rows of the table (R77; assumption log 12). -/
  | unmapped (op : Word)
  deriving DecidableEq, Repr

end Sys2Proof
end

