-- ==== Sys2Proof/WellFormed.lean ====
section
/-! DEFINITION. The opcode map of 30_encoding.md R74 as data, and which instructions are well formed. -/

namespace Sys2Proof

/-- One row of the opcode map (R74): a word matches it when `(op & mask) == matches`. -/
structure OpcodeRow where
  mask : Word
  value : Word
  deriving DecidableEq, Repr

/-- "A word matches a row when `(op & mask) == match`" (R74). -/
def OpcodeRow.hits (r : OpcodeRow) (w : Word) : Bool := w &&& r.mask == r.value

/-- The rows of R74 with T = 0..7, in the table's order. -/
def opcodeMapLow : List OpcodeRow :=
  [⟨0xFFFF, 0x00E0⟩, ⟨0xFFFF, 0x00EE⟩, ⟨0xF000, 0x1000⟩, ⟨0xF000, 0x2000⟩, ⟨0xF000, 0x3000⟩,
   ⟨0xF000, 0x4000⟩, ⟨0xF000, 0x5000⟩, ⟨0xF000, 0x6000⟩, ⟨0xF000, 0x7000⟩]

/-- The rows of R74 with T = 8, in the table's order. -/
def opcodeMapAlu : List OpcodeRow :=
  [⟨0xF00F, 0x8000⟩, ⟨0xF00F, 0x8001⟩, ⟨0xF00F, 0x8002⟩, ⟨0xF00F, 0x8003⟩, ⟨0xF00F, 0x8004⟩,
   ⟨0xF00F, 0x8005⟩, ⟨0xF00F, 0x8006⟩, ⟨0xF00F, 0x8007⟩, ⟨0xF00F, 0x800E⟩]

/-- The rows of R74 with T = 9..F, in the table's order. -/
def opcodeMapHigh : List OpcodeRow :=
  [⟨0xF000, 0x9000⟩, ⟨0xF000, 0xA000⟩, ⟨0xF000, 0xB000⟩, ⟨0xF000, 0xC000⟩, ⟨0xF000, 0xD000⟩,
   ⟨0xF0FF, 0xE09E⟩, ⟨0xF0FF, 0xE0A1⟩, ⟨0xF0FF, 0xF007⟩, ⟨0xF0FF, 0xF00A⟩, ⟨0xF0FF, 0xF015⟩,
   ⟨0xF0FF, 0xF018⟩, ⟨0xF0FF, 0xF01E⟩, ⟨0xF0FF, 0xF029⟩, ⟨0xF0FF, 0xF033⟩, ⟨0xF0FF, 0xF055⟩,
   ⟨0xF0FF, 0xF065⟩]

/-- The opcode map (R74) but for its last row, which is every word no row of this list matches. -/
def opcodeMap : List OpcodeRow := opcodeMapLow ++ opcodeMapAlu ++ opcodeMapHigh

/-- The number of the instruction's row in `opcodeMap`; none for an unmapped word. -/
def Instr.row : Instr → Option Nat
  | .cls => some 0
  | .ret => some 1
  | .jpNnn _ => some 2
  | .callNnn _ => some 3
  | .seVxNn _ _ => some 4
  | .sneVxNn _ _ => some 5
  | .seVxVy _ _ => some 6
  | .ldVxNn _ _ => some 7
  | .addVxNn _ _ => some 8
  | .ldVxVy _ _ => some 9
  | .orVxVy _ _ => some 10
  | .andVxVy _ _ => some 11
  | .xorVxVy _ _ => some 12
  | .addVxVy _ _ => some 13
  | .subVxVy _ _ => some 14
  | .shrVxVy _ _ => some 15
  | .subnVxVy _ _ => some 16
  | .shlVxVy _ _ => some 17
  | .sneVxVy _ _ => some 18
  | .ldINnn _ => some 19
  | .jpV0Nnn _ => some 20
  | .rndVxNn _ _ => some 21
  | .drwVxVyN _ _ _ => some 22
  | .skpVx _ => some 23
  | .sknpVx _ => some 24
  | .ldVxDt _ => some 25
  | .ldVxK _ => some 26
  | .ldDtVx _ => some 27
  | .ldStVx _ => some 28
  | .addIVx _ => some 29
  | .ldFVx _ => some 30
  | .ldBVx _ => some 31
  | .ldMemIVx _ => some 32
  | .ldVxMemI _ => some 33
  | .unmapped _ => none

/-- A word that selects no instruction (R74's last row, R75). -/
def unmappedWord (w : Word) : Bool := opcodeMap.all fun r => !r.hits w

/-- Well formed: the fields' types bound every operand, so the one check left is that `unmapped` carries an
unmapped word (R75, R77). -/
def Instr.wellFormed (i : Instr) : Bool :=
  match i with
  | .cls | .ret | .jpNnn _ | .callNnn _ | .seVxNn _ _ | .sneVxNn _ _ | .seVxVy _ _ | .ldVxNn _ _
  | .addVxNn _ _ | .ldVxVy _ _ | .orVxVy _ _ | .andVxVy _ _ | .xorVxVy _ _ | .addVxVy _ _ | .subVxVy _ _
  | .shrVxVy _ _ | .subnVxVy _ _ | .shlVxVy _ _ | .sneVxVy _ _ | .ldINnn _ | .jpV0Nnn _ | .rndVxNn _ _
  | .drwVxVyN _ _ _ | .skpVx _ | .sknpVx _ | .ldVxDt _ | .ldVxK _ | .ldDtVx _ | .ldStVx _ | .addIVx _
  | .ldFVx _ | .ldBVx _ | .ldMemIVx _ | .ldVxMemI _ => true
  | .unmapped op => unmappedWord op

end Sys2Proof
end

