-- ==== Sys2Proof/Decode.lean ====
section
/-! DEFINITION. Decoding (30_encoding.md R70 to R77) and, after it, the encoder. -/

namespace Sys2Proof

/-! ### Fields (R71) and byte order (R51, R54) -/

/-- T, `op[15:12]` (R71). -/
def fieldT (op : Word) : BitVec 4 := op.extractLsb' 12 4

/-- X, `op[11:8]`, as a register index (R71, R72). -/
def fieldX (op : Word) : Reg := (op.extractLsb' 8 4).toFin

/-- Y, `op[7:4]`, as a register index (R71, R72). -/
def fieldY (op : Word) : Reg := (op.extractLsb' 4 4).toFin

/-- N, `op[3:0]` (R71). -/
def fieldN (op : Word) : BitVec 4 := op.extractLsb' 0 4

/-- NN, `op[7:0]` (R71). -/
def fieldNN (op : Word) : Byte := op.extractLsb' 0 8

/-- NNN, `op[11:0]` (R71). -/
def fieldNNN (op : Word) : BitVec 12 := op.extractLsb' 0 12

/-- `{hi, lo}`: the byte at the lower address is bits 15..8 (20_memory.md R51, R54). -/
def bigEndian (hi lo : Byte) : Word := hi ++ lo

/-- The two bytes of a word, the one at the lower address first (20_memory.md R54). -/
def wordBytes (w : Word) : List Byte := [w.extractLsb' 8 8, w.extractLsb' 0 8]

/-! ### The decoder -/

/-- T = 0x0: all twelve bits of NNN are compared (R73, D14). -/
def decodeZero (op : Word) : Instr :=
  if fieldNNN op = 0x0E0 then .cls
  else if fieldNNN op = 0x0EE then .ret
  else .unmapped op

/-- T = 0x8 "switches on `N` (low nibble)" (R73). -/
def decodeAlu (op : Word) : Instr :=
  match (fieldN op).toNat with
  | 0x0 => .ldVxVy (fieldX op) (fieldY op)
  | 0x1 => .orVxVy (fieldX op) (fieldY op)
  | 0x2 => .andVxVy (fieldX op) (fieldY op)
  | 0x3 => .xorVxVy (fieldX op) (fieldY op)
  | 0x4 => .addVxVy (fieldX op) (fieldY op)
  | 0x5 => .subVxVy (fieldX op) (fieldY op)
  | 0x6 => .shrVxVy (fieldX op) (fieldY op)
  | 0x7 => .subnVxVy (fieldX op) (fieldY op)
  | 0xE => .shlVxVy (fieldX op) (fieldY op)
  | _ => .unmapped op

/-- T = 0xE: NN is compared with 0x9E and 0xA1 (R73, D16). -/
def decodeKeys (op : Word) : Instr :=
  if fieldNN op = 0x9E then .skpVx (fieldX op)
  else if fieldNN op = 0xA1 then .sknpVx (fieldX op)
  else .unmapped op

/-- T = 0xF "switches on the full `NN` byte" (R73). -/
def decodeMisc (op : Word) : Instr :=
  match (fieldNN op).toNat with
  | 0x07 => .ldVxDt (fieldX op)
  | 0x0A => .ldVxK (fieldX op)
  | 0x15 => .ldDtVx (fieldX op)
  | 0x18 => .ldStVx (fieldX op)
  | 0x1E => .addIVx (fieldX op)
  | 0x29 => .ldFVx (fieldX op)
  | 0x33 => .ldBVx (fieldX op)
  | 0x55 => .ldMemIVx (fieldX op)
  | 0x65 => .ldVxMemI (fieldX op)
  | _ => .unmapped op

/-- `decode : u16 -> Instr`, total (R77), two-level (R73): "dispatch on the top nibble". -/
def decodeWord (op : Word) : Instr :=
  match (fieldT op).toNat with
  | 0x0 => decodeZero op
  | 0x1 => .jpNnn (fieldNNN op)
  | 0x2 => .callNnn (fieldNNN op)
  | 0x3 => .seVxNn (fieldX op) (fieldNN op)
  | 0x4 => .sneVxNn (fieldX op) (fieldNN op)
  | 0x5 => .seVxVy (fieldX op) (fieldY op)
  | 0x6 => .ldVxNn (fieldX op) (fieldNN op)
  | 0x7 => .addVxNn (fieldX op) (fieldNN op)
  | 0x8 => decodeAlu op
  | 0x9 => .sneVxVy (fieldX op) (fieldY op)
  | 0xA => .ldINnn (fieldNNN op)
  | 0xB => .jpV0Nnn (fieldNNN op)
  | 0xC => .rndVxNn (fieldX op) (fieldNN op)
  | 0xD => .drwVxVyN (fieldX op) (fieldY op) (fieldN op)
  | 0xE => decodeKeys op
  | _ => decodeMisc op

/-- Why a list of bytes gives no instruction. No word is rejected (R76, R77), so there is one reason. -/
inductive DecodeError where
  /-- Fewer than the two bytes every instruction has (R70). Safe. -/
  | truncated
  deriving DecidableEq, Repr

/-- The instruction at the head of a list of bytes, and the bytes after it. -/
def decode : List Byte → Except DecodeError (Instr × List Byte)
  | hi :: lo :: rest => .ok (decodeWord (bigEndian hi lo), rest)
  | _ => .error .truncated

/-- The instruction the decoder reads from the word `w` of the opcode table, laid out big-endian (R51). -/
def decodeTableWord (nbits w : Nat) : Option Instr :=
  match decode (wordBytes (BitVec.ofNat 16 (w % 2 ^ nbits))) with
  | .ok (i, _) => some i
  | .error _ => none

/-! ### The encoder -/

/-- `T NNN`. -/
def wordTNNN (t : BitVec 4) (nnn : BitVec 12) : Word := t ++ nnn

/-- `T X NN`. -/
def wordTXNN (t : BitVec 4) (x : Reg) (nn : Byte) : Word := t ++ BitVec.ofFin (w := 4) x ++ nn

/-- `T X Y N`. -/
def wordTXYN (t : BitVec 4) (x y : Reg) (n : BitVec 4) : Word :=
  t ++ BitVec.ofFin (w := 4) x ++ BitVec.ofFin (w := 4) y ++ n

/-- The opcode word of an instruction (R71, R74). "`SE Vx, Vy` and `SNE Vx, Vy` assemble with N = 0" (R79). -/
def encodeWord (i : Instr) : Word :=
  match i with
  | .cls => 0x00E0
  | .ret => 0x00EE
  | .jpNnn nnn => wordTNNN 0x1 nnn
  | .callNnn nnn => wordTNNN 0x2 nnn
  | .seVxNn x nn => wordTXNN 0x3 x nn
  | .sneVxNn x nn => wordTXNN 0x4 x nn
  | .seVxVy x y => wordTXYN 0x5 x y 0x0
  | .ldVxNn x nn => wordTXNN 0x6 x nn
  | .addVxNn x nn => wordTXNN 0x7 x nn
  | .ldVxVy x y => wordTXYN 0x8 x y 0x0
  | .orVxVy x y => wordTXYN 0x8 x y 0x1
  | .andVxVy x y => wordTXYN 0x8 x y 0x2
  | .xorVxVy x y => wordTXYN 0x8 x y 0x3
  | .addVxVy x y => wordTXYN 0x8 x y 0x4
  | .subVxVy x y => wordTXYN 0x8 x y 0x5
  | .shrVxVy x y => wordTXYN 0x8 x y 0x6
  | .subnVxVy x y => wordTXYN 0x8 x y 0x7
  | .shlVxVy x y => wordTXYN 0x8 x y 0xE
  | .sneVxVy x y => wordTXYN 0x9 x y 0x0
  | .ldINnn nnn => wordTNNN 0xA nnn
  | .jpV0Nnn nnn => wordTNNN 0xB nnn
  | .rndVxNn x nn => wordTXNN 0xC x nn
  | .drwVxVyN x y n => wordTXYN 0xD x y n
  | .skpVx x => wordTXNN 0xE x 0x9E
  | .sknpVx x => wordTXNN 0xE x 0xA1
  | .ldVxDt x => wordTXNN 0xF x 0x07
  | .ldVxK x => wordTXNN 0xF x 0x0A
  | .ldDtVx x => wordTXNN 0xF x 0x15
  | .ldStVx x => wordTXNN 0xF x 0x18
  | .addIVx x => wordTXNN 0xF x 0x1E
  | .ldFVx x => wordTXNN 0xF x 0x29
  | .ldBVx x => wordTXNN 0xF x 0x33
  | .ldMemIVx x => wordTXNN 0xF x 0x55
  | .ldVxMemI x => wordTXNN 0xF x 0x65
  | .unmapped op => op

/-- The instruction's two bytes as memory holds them (20_memory.md R54). -/
def encode (i : Instr) : List Byte := wordBytes (encodeWord i)

end Sys2Proof
end

