-- ==== Sys2Proof/Config.lean ====
section
/-! DEFINITION. The fixed values of 00_scope.md R6, the values and defaults of the parameters of R7, and the
free draws of `rand_in`. -/

namespace Sys2Proof.Config

/-- MEM_SIZE (R6): addresses 0x000 to 0xFFF. -/
abbrev memSize : Nat := 4096

/-- STACK_DEPTH (R6). -/
abbrev stackDepth : Nat := 16

/-- PROG_BASE (R6): the load origin and the reset PC. -/
abbrev progBase : Nat := 0x200

/-- MAX_ROM (R6): 3584 bytes, 0x200..0xFFF. -/
abbrev maxRom : Nat := 0xE00

/-- GLYPH_BYTES (R6): the bytes of one font glyph. -/
abbrev glyphBytes : Nat := 5

/-- Glyphs 0 to 7 of the default FONT (10_state.md R27). -/
def fontLow : List Byte :=
  [0xF0, 0x90, 0x90, 0x90, 0xF0] ++ [0x20, 0x60, 0x20, 0x20, 0x70] ++
  [0xF0, 0x10, 0xF0, 0x80, 0xF0] ++ [0xF0, 0x10, 0xF0, 0x10, 0xF0] ++
  [0x90, 0x90, 0xF0, 0x10, 0x10] ++ [0xF0, 0x80, 0xF0, 0x10, 0xF0] ++
  [0xF0, 0x80, 0xF0, 0x90, 0xF0] ++ [0xF0, 0x10, 0x20, 0x40, 0x40]

/-- Glyphs 8 to F of the default FONT (10_state.md R27). -/
def fontHigh : List Byte :=
  [0xF0, 0x90, 0xF0, 0x90, 0xF0] ++ [0xF0, 0x90, 0xF0, 0x10, 0xF0] ++
  [0xF0, 0x90, 0xF0, 0x90, 0x90] ++ [0xE0, 0x90, 0xE0, 0x90, 0xE0] ++
  [0xF0, 0x80, 0x80, 0x80, 0xF0] ++ [0xE0, 0x90, 0x90, 0x90, 0xE0] ++
  [0xF0, 0x80, 0xF0, 0x80, 0xF0] ++ [0xF0, 0x80, 0xF0, 0x80, 0x80]

/-- The values of the parameter FONT (R7): 16 glyphs of 5 bytes. -/
abbrev Font := Vector Byte 80

/-- The default of the parameter FONT (R7, D20): the glyphs of 10_state.md R27. The spec has them "from general
knowledge, not in source"; assumption log 2. -/
def font : Font := ⟨(fontLow ++ fontHigh).toArray, by decide⟩

/-- The values of the parameter SUBN_DEST (R7): the two readings of 8XY7's destination (42_alu.md R153). -/
inductive SubnDest where
  | y
  | x
  deriving DecidableEq, Repr

/-- FREE VALUE. The `n`-th unconstrained draw of the input `rand_in` (R7, R36, D21): nothing fixes its value;
assumption log 5. -/
opaque randDraw : Nat → Byte

end Sys2Proof.Config
end

