-- ==== Sys2Proof/Machine/State.lean ====
section
/-! DEFINITION. The state (10_state.md), its reset value, and the reasons a step can stop. -/

namespace Sys2Proof.Machine

/-- RUN_STATE (10_state.md R31). -/
inductive RunState where
  | running
  | faulted
  deriving DecidableEq, Repr

/-- FAULT_CAUSE (10_state.md R32, 60_exceptions.md R230): the faults of the hardware. Taking one is a state
change, not a stop of the model (R232). -/
inductive FaultCause where
  | none
  | fetchOob
  | memOob
  | stackOverflow
  | stackUnderflow
  deriving DecidableEq, Repr

/-- LOAD_STATUS (10_state.md R35). -/
inductive LoadStatus where
  | none
  | loaded
  | rejected
  deriving DecidableEq, Repr

/-- MEM: the listed bytes, addresses strictly rising, no entry equal to what an unlisted address reads as
(`Memory.wf`). An unlisted address reads as after reset (R38), with the parameter FONT; assumption log 8. -/
abbrev Memory := List Host.Cell

/-- DISPLAY (10_state.md R29): 32 rows of 64 pixels, pixel (x, y) being bit x of row y, 1 = lit. -/
abbrev Display := Vector (BitVec 64) 32

/-- The `rand_in` input of an instruction tick (10_state.md R36, R40): the byte the event carries, or the
`n`-th unconstrained draw (assumption log 5). -/
inductive Draw where
  | given (b : Byte)
  | free (n : Nat)
  deriving DecidableEq, Repr

/-- The host events (10_state.md R40). -/
inductive Event where
  | reset
  | load (rom : List Byte)
  | instrTick (rand : Draw)
  | timerTick
  | keyDown (k : Key)
  | keyUp (k : Key)
  deriving DecidableEq, Repr, Inhabited

end Sys2Proof.Machine

/-- FREE VALUE. The `n`-th event of a host whose schedule is unconstrained (00_scope.md R7, D27): nothing fixes it, so
the events after the pending ones are any infinite sequence; assumption log 4. -/
opaque Sys2Proof.Config.hostEvent : Nat → Sys2Proof.Machine.Event

namespace Sys2Proof.Machine

/-- The values of the parameter `host schedule` (00_scope.md R7), beside the list of pending events: which events follow
when none is pending. Assumption log 4. -/
inductive HostMode where
  /-- The default of R7, "unconstrained": the free values `Config.hostEvent`. -/
  | unconstrained
  /-- DESIGN CHOICE: instruction ticks with free draws only, one schedule among the unconstrained ones. -/
  | ticks
  deriving DecidableEq, Repr

/-- The parameters of 00_scope.md R7 but `rand_in`, which comes with the event: "each is a named argument of the
model". No instruction and no event, `Reset` included, changes one; assumption log 2, 3, 4 and 20. -/
structure Params where
  /-- FONT (R7, 10_state.md R27). -/
  font : Config.Font
  /-- SUBN_DEST (R7, 42_alu.md R153). -/
  subnDest : Config.SubnDest
  /-- `host schedule` (R7), after the pending events. -/
  host : HostMode
  deriving DecidableEq, Repr

/-- The defaults of 00_scope.md R7. -/
def Params.default : Params where
  font := Config.font
  subnDest := .y
  host := .unconstrained

/-- What an event returns to the host (10_state.md R42). -/
inductive EventResult where
  /-- "The other events return nothing." -/
  | nothing
  | executed (op : Word)
  | unmapped (op : Word)
  | fault (cause : FaultCause)
  | halted
  | frame (display : Display)
  | loaded
  | rejected
  deriving DecidableEq, Repr

/-- The state: all that 10_state.md sections 1 to 8 give the block, then the parameters of 00_scope.md R7 and the
model's own fields. -/
structure State where
  /-- V0..VF (R20); `v[15]` is VF (R21). -/
  v : Vector Byte 16
  /-- I (R22). -/
  i : Word
  /-- PC (R23). -/
  pc : Word
  /-- SP (R25): the number of occupied stack entries. -/
  sp : BitVec 8
  /-- STACK (R24). -/
  stack : Vector Word 16
  /-- DT (R28). -/
  dt : Byte
  /-- ST (R28). -/
  st : Byte
  /-- MEM (R26). -/
  mem : Memory
  /-- DISPLAY (R29). -/
  display : Display
  /-- KEYS (R30): bit k is 1 when key k is pressed. -/
  keys : BitVec 16
  /-- RUN_STATE (R31). -/
  runState : RunState
  /-- FAULT_CAUSE (R32). -/
  faultCause : FaultCause
  /-- FAULT_PC (R32). -/
  faultPc : Word
  /-- FAULT_ADDR (R32). -/
  faultAddr : Word
  /-- UNMAPPED_COUNT (R33). -/
  unmappedCount : Word
  /-- LAST_UNMAPPED (R33). -/
  lastUnmapped : Word
  /-- KEY_WAIT (R34). -/
  keyWait : Bool
  /-- LOAD_STATUS (R35). -/
  loadStatus : LoadStatus
  /-- The parameters (00_scope.md R7), which never change; assumption log 20. -/
  params : Params
  /-- The model's own: the `rand_in` input of the current instruction tick (R36); assumption log 5. -/
  randIn : Draw
  /-- The model's own: how many free values the step has handed out; assumption log 4 and 5. -/
  draws : Nat
  /-- The model's own: the host events still to be delivered, oldest first (R36, R40); assumption log 4. -/
  schedule : List Event
  /-- The model's own: the result of the last delivered event (R42); assumption log 6. -/
  lastResult : EventResult
  deriving DecidableEq, Repr

/-- Why the model stops with a fault of its OWN. The faults of the hardware are next states (`FaultCause`). -/
inductive Fault where
  /-- CALL and RET raise it in a state whose SP is above 16 (RET: above 16 too), where `STACK[SP]` does not
  exist (10_state.md R25 gives SP the range 0..16). No run reaches such a state. Safe; assumption log 7. -/
  | stackPointerRange
  deriving DecidableEq, Repr

/-- Why the model refuses an instruction. -/
inductive Refusal where
  /-- An arm of `exec` raises it for an instruction that has no meaning yet: none is left. Safe. -/
  | notModelled (mnemonic : String)
  deriving DecidableEq, Repr

/-- The machine after `Reset` (10_state.md R38, 70_reset_and_hazards.md R260), with the parameters at their defaults
(00_scope.md R7). The last four fields are the model's own (assumption log 4, 5 and 6). -/
def State.reset : State where
  v := Vector.replicate 16 0
  i := 0
  pc := 0x200
  sp := 0
  stack := Vector.replicate 16 0
  dt := 0
  st := 0
  mem := []
  display := Vector.replicate 32 0
  keys := 0
  runState := .running
  faultCause := .none
  faultPc := 0
  faultAddr := 0
  unmappedCount := 0
  lastUnmapped := 0
  keyWait := false
  loadStatus := .none
  params := .default
  randIn := .free 0
  draws := 0
  schedule := []
  lastResult := .nothing

end Sys2Proof.Machine
end

