-- ==== Sys2Proof/Machine/Ops.lean ====
section
/-! DEFINITION. The named operations over memory, registers, stack and display, and taking a fault. -/

namespace Sys2Proof.Machine

/-! ### Memory (20_memory.md) -/

/-- What an unlisted address reads as: the reset contents, "MEM[0x000..0x04F] FONT, MEM[0x050..0xFFF] 0"
(10_state.md R38), with the parameter FONT. Addresses above 0xFFF do not exist; no instruction reads one (R53;
assumption log 8). -/
def Memory.blank (font : Config.Font) (a : Nat) : Byte := font[a]?.getD 0

/-- `MemRead(a, 1)` (00_scope.md R10, 20_memory.md R58). -/
def Memory.read (font : Config.Font) : Memory → Nat → Byte
  | [], a => Memory.blank font a
  | (k, b) :: rest, a => if k = a then b else Memory.read font rest a

/-- The entries for one address: none where the byte is what the unlisted address reads as. -/
def Memory.cell (font : Config.Font) (a : Nat) (b : Byte) : Memory :=
  if b = Memory.blank font a then [] else [(a, b)]

/-- `MemWrite(a, 1, b)` (00_scope.md R10), keeping the canonical form. -/
def Memory.write (font : Config.Font) : Memory → Nat → Byte → Memory
  | [], a, b => Memory.cell font a b
  | (k, c) :: rest, a, b =>
    if a < k then Memory.cell font a b ++ (k, c) :: rest
    else if a = k then Memory.cell font a b ++ rest
    else (k, c) :: Memory.write font rest a b

/-- The bytes `bs` written to `a, a+1, …` in this order (20_memory.md R52, R60). -/
def Memory.writeBytes (font : Config.Font) : Memory → Nat → List Byte → Memory
  | m, _, [] => m
  | m, a, b :: bs => Memory.writeBytes font (m.write font a b) (a + 1) bs

/-- The `n` bytes at `a, a+1, …` (20_memory.md R52). -/
def Memory.readBytes (font : Config.Font) (m : Memory) (a n : Nat) : List Byte :=
  (List.range n).map fun k => m.read font (a + k)

/-- The canonical form: every address is in the space, addresses strictly rise, no entry is a blank one. -/
abbrev Memory.wf (font : Config.Font) (m : Memory) : Prop :=
  m.Pairwise (fun p q => p.1 < q.1) ∧ ∀ p ∈ m, p.1 < Config.memSize ∧ p.2 ≠ Memory.blank font p.1

/-- The byte at `a`: every read of memory is this one. -/
def State.read (s : State) (a : Nat) : Byte := s.mem.read s.params.font a

/-- The `n` bytes at `a, a+1, …`. -/
def State.readBytes (s : State) (a n : Nat) : List Byte := s.mem.readBytes s.params.font a n

/-- The bytes `bs` written to `a, a+1, …`: every write of memory is this one. -/
def State.writeBytes (s : State) (a : Nat) (bs : List Byte) : State :=
  { s with mem := s.mem.writeBytes s.params.font a bs }

/-- The state's memory is in canonical form. -/
abbrev State.memWf (s : State) : Prop := s.mem.wf s.params.font

/-- `InRange(base, n)` (20_memory.md R53), on integers with no wrap. -/
def inRange (base n : Nat) : Bool := n == 0 || base + n - 1 ≤ 0xFFF

/-- `FirstBad(base, n)` (20_memory.md R53): the lowest address of the range above 0xFFF. -/
def firstBad (base : Word) : Word := if base.toNat < 0x1000 then 0x1000 else base

/-! ### Registers (10_state.md R20 to R23, R28) -/

/-- VF is `V[15]` (10_state.md R21). -/
def vf : Reg := 15

/-- `V[r]`. -/
def State.reg (s : State) (r : Reg) : Byte := s.v[r.val]

/-- `V[r] <- b`. -/
def State.setReg (s : State) (r : Reg) (b : Byte) : State := { s with v := s.v.set r.val b }

/-- `V[k] <- bs[k]` for each `k` below the length of `bs`, counted from register `r`. -/
def State.setRegs : State → Nat → List Byte → State
  | s, _, [] => s
  | s, r, b :: bs => State.setRegs { s with v := s.v.setIfInBounds r b } (r + 1) bs

/-- `PC <- w`. -/
def State.setPc (s : State) (w : Word) : State := { s with pc := w }

/-- `I <- w`. -/
def State.setI (s : State) (w : Word) : State := { s with i := w }

/-- `DT <- b`. -/
def State.setDt (s : State) (b : Byte) : State := { s with dt := b }

/-- `ST <- b`. -/
def State.setSt (s : State) (b : Byte) : State := { s with st := b }

/-- The display of the state replaced. -/
def State.setDisplay (s : State) (d : Display) : State := { s with display := d }

/-- `KEY_WAIT <- b`. -/
def State.setKeyWait (s : State) (b : Bool) : State := { s with keyWait := b }

/-- `Skip()` (41_control_flow.md R120). -/
def State.skip (s : State) : State := s.setPc (s.pc + 2)

/-! ### Return-address stack (10_state.md R24, R25) -/

/-- "`STACK[SP] <- w; SP <- SP + 1`" (41_control_flow.md R121), for SP below 16. -/
def State.push (s : State) (w : Word) : State :=
  { s with stack := s.stack.setIfInBounds s.sp.toNat w, sp := s.sp + 1 }

/-- "`SP <- SP - 1`", the entry keeping its value (41_control_flow.md R123, 10_state.md R25). -/
def State.pop (s : State) : State := { s with sp := s.sp - 1 }

/-! ### Display (10_state.md R29, 44_display.md) -/

/-- `DISPLAY[x][y]`. -/
def Display.pixel (d : Display) (x : Fin 64) (y : Fin 32) : Bool := d[y.val].getLsbD x.val

/-- `DISPLAY[x][y] <- b`. -/
def Display.setPixel (d : Display) (x : Fin 64) (y : Fin 32) (b : Bool) : Display :=
  d.set y.val
    (if b then d[y.val] ||| (1#64 <<< x.val) else d[y.val] &&& ~~~(1#64 <<< x.val))

/-- All 2048 pixels 0. -/
def Display.clear : Display := Vector.replicate 32 0

/-- The pixels one sprite row composites: pixel `b` of the row is bit `7 - b` of its byte (44_display.md R193, D18;
assumption log 15, unsafe), at `((x0 + b) mod 64, y mod 32)` (R195). -/
def rowPixels (x0 y : Nat) (row : Byte) : List (Fin 64 × Fin 32 × Bool) :=
  (List.range 8).map fun b => (Fin.ofNat 64 (x0 + b), Fin.ofNat 32 y, row.getLsbD (7 - b))

/-- The pixels a sprite composites, in the order of 44_display.md R191's loops. -/
def spritePixels (x0 y0 : Nat) : List Byte → List (Fin 64 × Fin 32 × Bool)
  | [] => []
  | row :: rest => rowPixels x0 y0 row ++ spritePixels x0 (y0 + 1) rest

/-- One pixel of the loop body of 44_display.md R191: the new display, and whether a collision has occurred so far
(R194). -/
def composite (acc : Display × Bool) (p : Fin 64 × Fin 32 × Bool) : Display × Bool :=
  let old := acc.1.pixel p.1 p.2.1
  let new := old ^^ p.2.2
  (acc.1.setPixel p.1 p.2.1 new, acc.2 || (old && !new))

/-- The loops of 44_display.md R191 over all pixels of the sprite. -/
def drawSprite (d : Display) (pixels : List (Fin 64 × Fin 32 × Bool)) : Display × Bool :=
  pixels.foldl composite (d, false)

/-! ### Taking a fault (60_exceptions.md R232) -/

/-- Fault entry (60_exceptions.md R232): "PC <- a; FAULT_CAUSE <- cause; FAULT_PC <- a; FAULT_ADDR <- addr;
RUN_STATE <- FAULTED", and nothing else. There is no return from a fault but `Reset` (R234; `resetEvent`). -/
def State.enterFault (s : State) (a : Word) (cause : FaultCause) (addr : Word) : State :=
  { s with pc := a, faultCause := cause, faultPc := a, faultAddr := addr, runState := .faulted }

/-- `raise Fault(cause, addr)` inside an instruction, where PC = a + 2 (40_cycle.md R102): the fault is taken at
`a = PC - 2`. DEDUCED, safe; assumption log 11. -/
def State.raise (s : State) (cause : FaultCause) (addr : Word) : State := s.enterFault (s.pc - 2) cause addr

end Sys2Proof.Machine
end

