-- ==== Sys2Proof/Machine/Operands.lean ====
section
/-! DEFINITION. The operand forms (30_encoding.md R72, 43_index_memory.md R176, 45_timers_keys.md R213 to R216). -/

namespace Sys2Proof.Machine

/-- An instruction's outcome. -/
abbrev Result := Host.Outcome State Fault Refusal

/-- The address NNN: `zext_16(op[11:0])` (30_encoding.md R72). -/
def addr12 (nnn : BitVec 12) : Word := nnn.zeroExtend 16

/-- A V register used as a 16-bit value: `zext_16(V[r])`. -/
def State.regWord (s : State) (r : Reg) : Word := (s.reg r).zeroExtend 16

/-- The destination of 8XY7 under the parameter SUBN_DEST: `V[Y]` at the default, else `V[X]` (42_alu.md R149, R153). -/
def subnReg (dest : Config.SubnDest) (x y : Reg) : Reg :=
  match dest with
  | .y => y
  | .x => x

/-- Whether the key with code `code` is pressed; a code above 0xF never is (45_timers_keys.md R216). -/
def State.pressed (s : State) (code : Byte) : Bool := code.toNat ≤ 0xF && s.keys.getLsbD code.toNat

/-- `min { k | KEYS[k] == 1 }` counted up from `k` over `n` codes (45_timers_keys.md R215); none where no key is
pressed. -/
def lowestFrom (keys : BitVec 16) (k : Nat) : Nat → Option Nat
  | 0 => none
  | n + 1 => if keys.getLsbD k then some k else lowestFrom keys (k + 1) n

/-- The lowest-numbered pressed key (45_timers_keys.md R215). -/
def State.lowestKey (s : State) : Option Nat := lowestFrom s.keys 0 16

/-- The register-indirect forms through I over `n` bytes: "each instruction checks every address it would touch
before it reads or writes any of them" (20_memory.md R53), and raises MEM_OOB otherwise. -/
def withRange (n : Nat) (s : State) (body : State) : Result :=
  if inRange s.i.toNat n then .next body else .next (s.raise .memOob (firstBad s.i))

/-- The conditional skips (41_control_flow.md R120, R129). -/
def skipIf (c : Bool) (s : State) : Result := .next (if c then s.skip else s)

end Sys2Proof.Machine
end

