-- ==== Sys2Proof/Machine/Flags.lean ====
section
/-! DEFINITION. The flag computations (42_alu.md R146 to R150, 44_display.md R194) and the order of the flag write
and the result write. -/

namespace Sys2Proof.Machine

/-- `bool(c)` as the byte a V register takes (00_scope.md R9). -/
def boolByte (c : Bool) : Byte := if c then 1 else 0

/-- `bool(a + b > 255)`, on integers (42_alu.md R146). -/
def carryFlag (a b : Byte) : Byte := boolByte (a.toNat + b.toNat > 255)

/-- `bool(a > b)`, strict (42_alu.md R147, R149). -/
def greaterFlag (a b : Byte) : Byte := boolByte (a.toNat > b.toNat)

/-- `a & 1` (42_alu.md R148). -/
def shrFlag (a : Byte) : Byte := a &&& 1

/-- `(a >> 7) & 1` (42_alu.md R150). -/
def shlFlag (a : Byte) : Byte := (a >>> 7) &&& 1

/-- The two statements of 8XY4, 8XY5 and 8XY7 in the order of 00_scope.md R11: VF takes the flag of `V[a]` and
`V[b]`, then `V[a]` takes the result, which reads `V[a]` and `V[b]` after the VF write. -/
def flagThenBinary (flag op : Byte → Byte → Byte) (a b : Reg) (s : State) : Result :=
  let s1 := s.setReg vf (flag (s.reg a) (s.reg b))
  .next (s1.setReg a (op (s1.reg a) (s1.reg b)))

/-- The same for the shifts, which have one operand (42_alu.md R148, R150). -/
def flagThenUnary (flag op : Byte → Byte) (a : Reg) (s : State) : Result :=
  let s1 := s.setReg vf (flag (s.reg a))
  .next (s1.setReg a (op (s1.reg a)))

end Sys2Proof.Machine
end

