-- ==== Sys2Proof/Machine/Alu.lean ====
section
/-! DEFINITION. Register arithmetic and logic (42_alu.md). -/

namespace Sys2Proof.Machine

/-- 6XNN (R140). -/
def execLdVxNn (x : Reg) (nn : Byte) (s : State) : Result := .next (s.setReg x nn)

/-- 7XNN (R141): VF is not changed by a carry out. -/
def execAddVxNn (x : Reg) (nn : Byte) (s : State) : Result := .next (s.setReg x (s.reg x + nn))

/-- 8XY0 (R142). -/
def execLdVxVy (x y : Reg) (s : State) : Result := .next (s.setReg x (s.reg y))

/-- 8XY1 (R143): VF is not cleared. -/
def execOrVxVy (x y : Reg) (s : State) : Result := .next (s.setReg x (s.reg x ||| s.reg y))

/-- 8XY2 (R144): VF is not cleared. -/
def execAndVxVy (x y : Reg) (s : State) : Result := .next (s.setReg x (s.reg x &&& s.reg y))

/-- 8XY3 (R145): VF is not cleared. -/
def execXorVxVy (x y : Reg) (s : State) : Result := .next (s.setReg x (s.reg x ^^^ s.reg y))

/-- 8XY4 (R146). -/
def execAddVxVy (x y : Reg) (s : State) : Result := flagThenBinary carryFlag (· + ·) x y s

/-- 8XY5 (R147). -/
def execSubVxVy (x y : Reg) (s : State) : Result := flagThenBinary greaterFlag (· - ·) x y s

/-- 8XY6 (R148): `V[X]` is shifted and Y is ignored. -/
def execShrVxVy (x _y : Reg) (s : State) : Result := flagThenUnary shrFlag (· >>> 1) x s

/-- 8XY7 for both values of the parameter SUBN_DEST: VF first, then the destination, which reads the new VF (R149,
R153). -/
def subnWith (dest : Config.SubnDest) (x y : Reg) (s : State) : Result :=
  let s1 := s.setReg vf (greaterFlag (s.reg y) (s.reg x))
  .next (s1.setReg (subnReg dest x y) (s1.reg y - s1.reg x))

/-- 8XY7: the destination is `V[Y]` with SUBN_DEST at its default, the normative one (R149), `V[X]` at the other value
(R153; assumption log 3). -/
def execSubnVxVy (x y : Reg) (s : State) : Result := subnWith s.params.subnDest x y s

/-- 8XYE (R150): `V[X]` is shifted and Y is ignored. -/
def execShlVxVy (x _y : Reg) (s : State) : Result := flagThenUnary shlFlag (· <<< 1) x s

/-- The byte at the input `rand_in` (10_state.md R36): the event's, or the free draw it names. -/
def Draw.value : Draw → Byte
  | .given b => b
  | .free n => Config.randDraw n

/-- CXNN (R151): `V[X] <- rand_in & NN`. -/
def execRndVxNn (x : Reg) (nn : Byte) (s : State) : Result := .next (s.setReg x (s.randIn.value &&& nn))

end Sys2Proof.Machine
end

