-- ==== Sys2Proof/Machine/Control.lean ====
section
/-! DEFINITION. Control transfer (41_control_flow.md). PC is already `a + 2` (40_cycle.md R102). -/

namespace Sys2Proof.Machine

/-- 1NNN (R122): `PC <- zext_16(NNN)`. -/
def execJpNnn (nnn : BitVec 12) (s : State) : Result := .next (s.setPc (addr12 nnn))

/-- 2NNN (R121). SP above 16 is no state of the hardware: assumption log 7, safe. -/
def execCallNnn (nnn : BitVec 12) (s : State) : Result :=
  if s.sp.toNat < Config.stackDepth then .next ((s.push s.pc).setPc (addr12 nnn))
  else if s.sp.toNat = Config.stackDepth then .next (s.raise .stackOverflow 16)
  else .fault .stackPointerRange

/-- 00EE (R123). SP above 16 is no state of the hardware: assumption log 7, safe. -/
def execRet (s : State) : Result :=
  if s.sp = 0 then .next (s.raise .stackUnderflow 0)
  else match s.stack[s.sp.toNat - 1]? with
    | some w => .next (s.pop.setPc w)
    | none => .fault .stackPointerRange

/-- BNNN (R124): always register 0. -/
def execJpV0Nnn (nnn : BitVec 12) (s : State) : Result := .next (s.setPc (addr12 nnn + s.regWord 0))

/-- 3XNN (R125). -/
def execSeVxNn (x : Reg) (nn : Byte) (s : State) : Result := skipIf (s.reg x == nn) s

/-- 4XNN (R126). -/
def execSneVxNn (x : Reg) (nn : Byte) (s : State) : Result := skipIf (s.reg x != nn) s

/-- 5XYN (R127). -/
def execSeVxVy (x y : Reg) (s : State) : Result := skipIf (s.reg x == s.reg y) s

/-- 9XYN (R128). -/
def execSneVxVy (x y : Reg) (s : State) : Result := skipIf (s.reg x != s.reg y) s

end Sys2Proof.Machine
end

