-- ==== Sys2Proof/Machine/IndexMemory.lean ====
section
/-! DEFINITION. The address register and memory transfer (43_index_memory.md). -/

namespace Sys2Proof.Machine

/-- ANNN (R170). -/
def execLdINnn (nnn : BitVec 12) (s : State) : Result := .next (s.setI (addr12 nnn))

/-- FX1E (R171): mod 65536, VF unchanged. -/
def execAddIVx (x : Reg) (s : State) : Result := .next (s.setI (s.i + s.regWord x))

/-- FX29 (R172): the whole byte `V[X]` is used. -/
def execLdFVx (x : Reg) (s : State) : Result := .next (s.setI (s.regWord x * BitVec.ofNat 16 Config.glyphBytes))

/-- The three digits of a byte: hundreds, tens, units (R173). -/
def bcdDigits (b : Byte) : List Byte :=
  [BitVec.ofNat 8 (b.toNat / 100), BitVec.ofNat 8 (b.toNat / 10 % 10), BitVec.ofNat 8 (b.toNat % 10)]

/-- FX33 (R173): I is unchanged. -/
def execLdBVx (x : Reg) (s : State) : Result :=
  withRange 3 s (s.writeBytes s.i.toNat (bcdDigits (s.reg x)))

/-- FX55 (R174): `V[0..X]` inclusive; I is unchanged. -/
def execLdMemIVx (x : Reg) (s : State) : Result :=
  withRange (x.val + 1) s (s.writeBytes s.i.toNat (s.v.toList.take (x.val + 1)))

/-- FX65 (R175): `V[0..X]` inclusive; I is unchanged. -/
def execLdVxMemI (x : Reg) (s : State) : Result :=
  withRange (x.val + 1) s (s.setRegs 0 (s.readBytes s.i.toNat (x.val + 1)))

end Sys2Proof.Machine
end

