-- ==== Sys2Proof/Machine/Screen.lean ====
section
/-! DEFINITION. The display instructions (44_display.md). -/

namespace Sys2Proof.Machine

/-- 00E0 (R190): VF is unchanged. -/
def execCls (s : State) : Result := .next (s.setDisplay Display.clear)

/-- The pixels DXYN composites in state `s` (R191): the origin is `(V[X] mod 64, V[Y] mod 32)`, sampled before VF is
written; the rows are the `n` bytes at I. -/
def spriteOf (x y : Reg) (n : BitVec 4) (s : State) : List (Fin 64 × Fin 32 × Bool) :=
  spritePixels ((s.reg x).toNat % 64) ((s.reg y).toNat % 32) (s.readBytes s.i.toNat n.toNat)

/-- DXYN (R191, R192). -/
def execDrwVxVyN (x y : Reg) (n : BitVec 4) (s : State) : Result :=
  let drawn := drawSprite s.display (spriteOf x y n s)
  withRange n.toNat s ((s.setDisplay drawn.1).setReg vf (boolByte drawn.2))

end Sys2Proof.Machine
end

