-- ==== Sys2Proof/Machine/TimersKeys.lean ====
section
/-! DEFINITION. The timer and keypad instructions (45_timers_keys.md). -/

namespace Sys2Proof.Machine

/-- FX07 (R210). -/
def execLdVxDt (x : Reg) (s : State) : Result := .next (s.setReg x s.dt)

/-- FX15 (R211). -/
def execLdDtVx (x : Reg) (s : State) : Result := .next (s.setDt (s.reg x))

/-- FX18 (R212). -/
def execLdStVx (x : Reg) (s : State) : Result := .next (s.setSt (s.reg x))

/-- EX9E (R213). -/
def execSkpVx (x : Reg) (s : State) : Result := skipIf (s.pressed (s.reg x)) s

/-- EXA1 (R214). -/
def execSknpVx (x : Reg) (s : State) : Result := skipIf (!s.pressed (s.reg x)) s

/-- FX0A (R215): with no key pressed PC goes back by 2 and KEY_WAIT is set, else `V[X]` takes the lowest pressed
key. -/
def execLdVxK (x : Reg) (s : State) : Result :=
  match s.lowestKey with
  | none => .next ((s.setPc (s.pc - 2)).setKeyWait true)
  | some k => .next (s.setReg x (BitVec.ofNat 8 k))

end Sys2Proof.Machine
end

