-- ==== Sys2Proof/Machine/Unmapped.lean ====
section
/-! DEFINITION. The unmapped words (40_cycle.md R106). -/

namespace Sys2Proof.Machine

/-- "`UNMAPPED_COUNT <- (UNMAPPED_COUNT + 1) mod 65536; LAST_UNMAPPED <- op`", nothing else (40_cycle.md R106). -/
def State.countUnmapped (s : State) (op : Word) : State :=
  { s with unmappedCount := s.unmappedCount + 1, lastUnmapped := op }

/-- An unmapped word: a counted no-op (40_cycle.md R106). -/
def execUnmapped (op : Word) (s : State) : Result := .next (s.countUnmapped op)

end Sys2Proof.Machine
end

