-- ==== Sys2Proof/Machine/Tick.lean ====
section
/-! DEFINITION. The instruction cycle (40_cycle.md R100 to R108). -/

namespace Sys2Proof.Machine

/-- What an event answers: "the step relation of the model is therefore `step : State -> Event -> State × Result`"
(10_state.md R44). -/
abbrev EventOutcome := Host.Outcome (State × EventResult) Fault Refusal

/-- The opcode at PC (20_memory.md R51); none where "PC + 1 > 0xFFF" (40_cycle.md R101). -/
def fetch (s : State) : Option Word :=
  if s.pc.toNat + 1 > 0xFFF then none
  else some (bigEndian (s.read s.pc.toNat) (s.read (s.pc.toNat + 1)))

/-- "`d` is FX0A-that-rewound" (40_cycle.md R100): `i` is FX0A and no key is pressed. -/
def waitsForKey (i : Instr) (s : State) : Bool :=
  match i with
  | .ldVxK _ => s.lowestKey.isNone
  | _ => false

/-- "`if d is Unmapped then Unmapped(op) else Executed(op)`" (40_cycle.md R100, R105). -/
def tickResult (op : Word) : EventResult :=
  if (decodeWord op).row.isNone then .unmapped op else .executed op

/-- The end of a tick whose instruction ran from `s1` to `s2`: a fault ends it at once (60_exceptions.md R232), else
KEY_WAIT is cleared unless FX0A waits (40_cycle.md R107). DEDUCED, safe; assumption log 9. -/
def finishTick (op : Word) (s1 s2 : State) : State × EventResult :=
  match s2.runState with
  | .faulted => (s2, .fault s2.faultCause)
  | .running => (if waitsForKey (decodeWord op) s1 then s2 else s2.setKeyWait false, tickResult op)

/-- `InstrTick` (40_cycle.md R100). The input `rand_in` is in `randIn`. RUN_STATE is looked at here, not in `exec`
(assumption log 16). -/
def instrTick (s : State) : EventOutcome :=
  match s.runState with
  | .faulted => .next (s, .halted)
  | .running =>
    match fetch s with
    | none => .next (s.enterFault s.pc .fetchOob s.pc, .fault .fetchOob)
    | some op =>
      let s1 := s.setPc (s.pc + 2)
      match exec (decodeWord op) s1 with
      | .next s2 => .next (finishTick op s1 s2)
      | .fault r => .fault r
      | .refused r => .refused r

end Sys2Proof.Machine
end

