-- ==== Sys2Proof/Machine/Events.lean ====
section
/-! DEFINITION. The host events (10_state.md R40 to R44, 60_exceptions.md R240 to R245), the outputs (R41) and the
pending schedule. -/

namespace Sys2Proof.Machine

/-! ### Outputs (10_state.md R41) -/

/-- `sound_active`: "1 when ST != 0, else 0" (10_state.md R41, 60_exceptions.md R242). -/
def State.soundActive (s : State) : Bool := s.st != 0

/-- `sound_timer` (10_state.md R41). -/
def State.soundTimer (s : State) : Byte := s.st

/-- `run_state` as its bit (10_state.md R31). -/
def RunState.code : RunState → BitVec 1
  | .running => 0
  | .faulted => 1

/-- `fault_cause` as its code (60_exceptions.md R230). -/
def FaultCause.code : FaultCause → BitVec 3
  | .none => 0
  | .fetchOob => 1
  | .memOob => 2
  | .stackOverflow => 3
  | .stackUnderflow => 4

/-- `load_status` as its code (10_state.md R35). -/
def LoadStatus.code : LoadStatus → BitVec 2
  | .none => 0
  | .loaded => 1
  | .rejected => 2

/-! ### Events -/

/-- `Reset` (70_reset_and_hazards.md R260). The parameters are no state and stay, FONT being "used again only at reset"
(20_memory.md R57); the pending events and the count of free values are the host's, not the block's, and stay too
(assumption log 13 and 20). -/
def resetEvent (s : State) : State :=
  { State.reset with params := s.params, schedule := s.schedule, draws := s.draws }

/-- `Load(rom)` (60_exceptions.md R245). -/
def loadEvent (rom : List Byte) (s : State) : State × EventResult :=
  if rom.length > Config.maxRom then ({ s with loadStatus := .rejected }, .rejected)
  else ({ s.writeBytes Config.progBase rom with loadStatus := .loaded }, .loaded)

/-- "`if DT > 0: DT <- DT - 1`", a timer at 0 staying at 0 (60_exceptions.md R240). -/
def countDown (t : Byte) : Byte := if t = 0 then 0 else t - 1

/-- `TimerTick` (60_exceptions.md R240). -/
def timerTickEvent (s : State) : State :=
  match s.runState with
  | .running => { s with dt := countDown s.dt, st := countDown s.st }
  | .faulted => s

/-- `KeyDown(k)` (60_exceptions.md R243). -/
def keyDownEvent (k : Key) (s : State) : State := { s with keys := s.keys ||| (1#16 <<< k.val) }

/-- `KeyUp(k)` (60_exceptions.md R244). -/
def keyUpEvent (k : Key) (s : State) : State := { s with keys := s.keys &&& ~~~(1#16 <<< k.val) }

/-- One host event run to completion, and its result (10_state.md R40, R42, R44). -/
def deliver (e : Event) (s : State) : EventOutcome :=
  match e with
  | .reset => .next (resetEvent s, .nothing)
  | .load rom => .next (loadEvent rom s)
  | .instrTick r => instrTick { s with randIn := r }
  | .timerTick => .next (timerTickEvent s, .frame (timerTickEvent s).display)
  | .keyDown k => .next (keyDownEvent k s, .nothing)
  | .keyUp k => .next (keyUpEvent k s, .nothing)

/-! ### The schedule (assumption log 4) -/

/-- The event that follows when none is pending (00_scope.md R7, D27): with the schedule unconstrained, a free value;
else an instruction tick with a free draw. Assumption log 4 and 5. -/
def hostNext (host : HostMode) (n : Nat) : Event :=
  match host with
  | .unconstrained => Config.hostEvent n
  | .ticks => .instrTick (.free n)

/-- The event the host delivers next and the state with it taken off the schedule: the oldest pending event; with none
pending, the one `hostNext` gives. Assumption log 4. -/
def nextEvent (s : State) : Event × State :=
  match s.schedule with
  | e :: rest => (e, { s with schedule := rest })
  | [] => (hostNext s.params.host s.draws, { s with draws := s.draws + 1 })

/-- The result an event returned, recorded where the host reads it (10_state.md R42; assumption log 6). -/
def recordResult : EventOutcome → Result
  | .next (s, r) => .next { s with lastResult := r }
  | .fault f => .fault f
  | .refused r => .refused r

/-- The next event delivered, its result recorded. -/
def stepEvent (s : State) : Result := recordResult (deliver (nextEvent s).1 (nextEvent s).2)

end Sys2Proof.Machine
end

