-- ==== Sys2Proof/Machine/Step.lean ====
section
/-! DEFINITION. The step: one host event (10_state.md R44), and where the next instruction is stored. -/

namespace Sys2Proof.Machine

/-- One step: the host event that is due, run to completion (10_state.md R44; assumption log 4). -/
def step (s : State) : Host.Outcome State Fault Refusal := stepEvent s

/-- `s` with the word `w` stored big-endian at PC, no event pending, a host that ticks and no fault held, so that the
next step is an instruction tick that fetches and runs it (assumption log 10). -/
def State.withFetchWord (s : State) (nbits w : Nat) : State :=
  { s.writeBytes s.pc.toNat (wordBytes (BitVec.ofNat 16 (w % 2 ^ nbits))) with
    params := { s.params with host := .ticks }
    schedule := []
    runState := .running
    faultCause := .none
    faultPc := 0
    faultAddr := 0 }

end Sys2Proof.Machine
end

