-- ==== Sys2Proof/Safety.lean ====
section
/-! DEFINITION. The terms claims use: the legal states, the endings of a run, and which instruction may write what. -/

namespace Sys2Proof.Machine

/-! ### Legal states -/

/-- What the fault record holds, by its cause (10_state.md R32, 60_exceptions.md R230, R232). -/
def State.recordOk (s : State) : Prop :=
  match s.faultCause with
  | .none => s.runState = .running ∧ s.faultPc = 0 ∧ s.faultAddr = 0
  | .fetchOob => s.runState = .faulted ∧ s.faultPc = s.pc ∧ s.faultAddr = s.pc ∧ 0xFFF ≤ s.pc.toNat
  | .memOob => s.runState = .faulted ∧ s.faultPc = s.pc ∧ 0xFFF < s.faultAddr.toNat ∧ s.i ≤ s.faultAddr
  | .stackOverflow => s.runState = .faulted ∧ s.faultPc = s.pc ∧ s.faultAddr = 16 ∧ s.sp = 16
  | .stackUnderflow => s.runState = .faulted ∧ s.faultPc = s.pc ∧ s.faultAddr = 0 ∧ s.sp = 0

/-- The legal states: every state a run reaches from reset is one. -/
structure State.Inv (s : State) : Prop where
  /-- Memory keeps its canonical form, inside the 4096 bytes (20_memory.md R50). -/
  memWf : s.memWf
  /-- "it holds 0..16" (10_state.md R25). -/
  spRange : s.sp.toNat ≤ 16
  /-- Every pushed value is an advanced PC, "up to 0x1000" (41_control_flow.md R123). -/
  stackRange : ∀ k : Fin 16, s.stack[k.val].toNat ≤ 0x1000
  /-- "PC may hold values up to 0x10FE" (10_state.md R23). -/
  pcRange : s.pc.toNat ≤ 0x10FE
  /-- The fault record agrees with the run state (10_state.md R32). -/
  record : s.recordOk
  /-- LAST_UNMAPPED holds an unmapped word; 0 is one (10_state.md R33, 30_encoding.md R75). -/
  lastUnmapped : unmappedWord s.lastUnmapped = true

/-! ### The endings of a run (70_reset_and_hazards.md R270) -/

/-- "RUN_STATE = FAULTED" (R270). -/
def State.isFaulted (s : State) : Prop := s.runState = .faulted

/-- "the instruction at PC is `1NNN` with NNN = PC (a jump to itself)" (R270). R270 does not say whether a FAULTED state
can be parked as well; that it cannot is a DESIGN CHOICE, safe (assumption log 19). -/
def State.isParked (s : State) : Prop :=
  s.runState = .running ∧ ∃ op nnn, fetch s = some op ∧ decodeWord op = .jpNnn nnn ∧ addr12 nnn = s.pc

/-- "KEY_WAIT = 1 at an FX0A" (R270). R270 does not say whether a FAULTED state can be waiting as well; that it cannot
is a DESIGN CHOICE, safe (assumption log 19). -/
def State.isWaiting (s : State) : Prop :=
  s.runState = .running ∧ s.keyWait = true ∧ ∃ op x, fetch s = some op ∧ decodeWord op = .ldVxK x

end Sys2Proof.Machine

namespace Sys2Proof

/-! ### Which instruction may write what (10_state.md R37) -/

/-- The instructions that write VF as a flag (10_state.md R21). -/
def Instr.writesFlag : Instr → Bool
  | .addVxVy _ _ | .subVxVy _ _ | .shrVxVy _ _ | .subnVxVy _ _ | .shlVxVy _ _ | .drwVxVyN _ _ _ => true
  | .cls | .ret | .jpNnn _ | .callNnn _ | .seVxNn _ _ | .sneVxNn _ _ | .seVxVy _ _ | .ldVxNn _ _ | .addVxNn _ _
  | .ldVxVy _ _ | .orVxVy _ _ | .andVxVy _ _ | .xorVxVy _ _ | .sneVxVy _ _ | .ldINnn _ | .jpV0Nnn _
  | .rndVxNn _ _ | .skpVx _ | .sknpVx _ | .ldVxDt _ | .ldVxK _ | .ldDtVx _ | .ldStVx _ | .addIVx _ | .ldFVx _
  | .ldBVx _ | .ldMemIVx _ | .ldVxMemI _ | .unmapped _ => false

/-- The destination registers an instruction names, its flag apart (10_state.md R37), under the parameter SUBN_DEST. -/
def Instr.namesDest (d : Config.SubnDest) : Instr → Reg → Bool
  | .ldVxNn x _, r | .addVxNn x _, r | .ldVxVy x _, r | .orVxVy x _, r | .andVxVy x _, r | .xorVxVy x _, r
  | .addVxVy x _, r | .subVxVy x _, r | .shrVxVy x _, r | .shlVxVy x _, r | .rndVxNn x _, r | .ldVxDt x, r
  | .ldVxK x, r => r == x
  | .subnVxVy x y, r => r == Machine.subnReg d x y
  | .ldVxMemI x, r => r.val ≤ x.val
  | .cls, _ | .ret, _ | .jpNnn _, _ | .callNnn _, _ | .seVxNn _ _, _ | .sneVxNn _ _, _ | .seVxVy _ _, _
  | .sneVxVy _ _, _ | .ldINnn _, _ | .jpV0Nnn _, _ | .drwVxVyN _ _ _, _ | .skpVx _, _ | .sknpVx _, _
  | .ldDtVx _, _ | .ldStVx _, _ | .addIVx _, _ | .ldFVx _, _ | .ldBVx _, _ | .ldMemIVx _, _ | .unmapped _, _ => false

/-- The registers an instruction may write, its flag included. -/
def Instr.mayWriteReg (d : Config.SubnDest) (i : Instr) (r : Reg) : Bool :=
  i.namesDest d r || (i.writesFlag && r == Machine.vf)

/-- How many bytes an instruction stores, from I upwards (20_memory.md R52). -/
def Instr.storeCount : Instr → Nat
  | .ldBVx _ => 3
  | .ldMemIVx x => x.val + 1
  | .cls | .ret | .jpNnn _ | .callNnn _ | .seVxNn _ _ | .sneVxNn _ _ | .seVxVy _ _ | .ldVxNn _ _ | .addVxNn _ _
  | .ldVxVy _ _ | .orVxVy _ _ | .andVxVy _ _ | .xorVxVy _ _ | .addVxVy _ _ | .subVxVy _ _ | .shrVxVy _ _
  | .subnVxVy _ _ | .shlVxVy _ _ | .sneVxVy _ _ | .ldINnn _ | .jpV0Nnn _ | .rndVxNn _ _ | .drwVxVyN _ _ _
  | .skpVx _ | .sknpVx _ | .ldVxDt _ | .ldVxK _ | .ldDtVx _ | .ldStVx _ | .addIVx _ | .ldFVx _ | .ldVxMemI _
  | .unmapped _ => 0

/-- The instructions of 60_exceptions.md R230's table; "no other instruction faults" (R231). -/
def Instr.mayRaise : Instr → Bool
  | .callNnn _ | .ret | .drwVxVyN _ _ _ | .ldBVx _ | .ldMemIVx _ | .ldVxMemI _ => true
  | .cls | .jpNnn _ | .seVxNn _ _ | .sneVxNn _ _ | .seVxVy _ _ | .ldVxNn _ _ | .addVxNn _ _ | .ldVxVy _ _
  | .orVxVy _ _ | .andVxVy _ _ | .xorVxVy _ _ | .addVxVy _ _ | .subVxVy _ _ | .shrVxVy _ _ | .subnVxVy _ _
  | .shlVxVy _ _ | .sneVxVy _ _ | .ldINnn _ | .jpV0Nnn _ | .rndVxNn _ _ | .skpVx _ | .sknpVx _ | .ldVxDt _
  | .ldVxK _ | .ldDtVx _ | .ldStVx _ | .addIVx _ | .ldFVx _ | .unmapped _ => false

end Sys2Proof
end

