-- ==== Sys2Proof/Certificates/Slice0/Obligations.lean ====
section
/-! DEFINITION. The statements for the provers. At the level of `exec`, PC is already `a + 2` (40_cycle.md R102), so
`s.pc - 2` is the address of the instruction; `t = { s with f := t.f }` says that no field but `f` changed. -/

open Sys2Proof Sys2Proof.Machine

/-! ### Decoding (30_encoding.md) -/

/-- Words written out from the encodings of R74 decode to the instructions they stand for, one per family. -/
def Obligations.WrittenWordsDecode : Prop :=
  decode [0x00, 0xEE] = .ok (.ret, []) ∧
  decode [0x2A, 0xBC] = .ok (.callNnn 0xABC, []) ∧
  decode [0x51, 0x2D] = .ok (.seVxVy 1 2, []) ∧
  decode [0x81, 0x27] = .ok (.subnVxVy 1 2, []) ∧
  decode [0xC3, 0x0F] = .ok (.rndVxNn 3 0x0F, []) ∧
  decode [0xF2, 0x55] = .ok (.ldMemIVx 2, []) ∧
  decode [0xD1, 0x25] = .ok (.drwVxVyN 1 2 5, []) ∧
  decode [0xE5, 0xA1] = .ok (.sknpVx 5, []) ∧
  decode [0xF3, 0x0A] = .ok (.ldVxK 3, []) ∧
  decode [0x81, 0x28] = .ok (.unmapped 0x8128, []) ∧
  decode [0x00] = .error .truncated

/-- Decoding the bytes of any well-formed instruction gives it back, with every operand, and leaves the bytes after
it. -/
def Obligations.DecodeInvertsEncode : Prop :=
  ∀ (i : Instr) (rest : List Byte), i.wellFormed = true → decode (encode i ++ rest) = .ok (i, rest)

/-- The opcode map (30_encoding.md sections 2 and 3): a word selects the row whose mask and match it meets, and only that
row; a word that meets none is unmapped. R74 marks the masks and "no word matches two rows" as its own inference ("derived:
from rule R73; the masks of 5XYN and 9XYN are decision D15"), and so is this. -/
def Obligations.DecodeFollowsOpcodeMap : Prop :=
  (∀ (w : Word) (k : Nat) (r : OpcodeRow), opcodeMap[k]? = some r →
    (r.hits w = true ↔ (decodeWord w).row = some k)) ∧
  (∀ w : Word, (∀ r ∈ opcodeMap, r.hits w = false) ↔ decodeWord w = .unmapped w)

/-- R71, R72, R73: no bit of an opcode is lost or moved by decoding, but for bits 3..0 of 5XYN and 9XYN, which are not
examined; and what is decoded is well formed. -/
def Obligations.DecodedWordEncodesBack : Prop :=
  ∀ w : Word, (decodeWord w).wellFormed = true ∧
    encodeWord (decodeWord w) = if fieldT w = 5 ∨ fieldT w = 9 then w &&& 0xFFF0 else w

/-! ### The cycle (40_cycle.md) -/

/-- R100, R102, R105, R107: where the two bytes at PC decode to `i` and RUN_STATE is RUNNING, an instruction tick runs
`i` with PC advanced by 2; if `i` raised, the tick returns Fault, else KEY_WAIT is cleared unless `i` is an FX0A that
waits, and the tick returns Unmapped or Executed. The step takes that tick from the head of the schedule, or, with no
event pending, where the host's next event is a tick (model's choice, assumption log 4 and 5). -/
def Obligations.StepRunsDecodedInstruction : Prop :=
  ∀ (s u t : State) (hi lo : Byte) (i : Instr),
    s.runState = .running → s.pc.toNat + 1 ≤ 0xFFF →
    s.read s.pc.toNat = hi → s.read (s.pc.toNat + 1) = lo → decode [hi, lo] = .ok (i, []) →
    ((∃ r rest, s.schedule = .instrTick r :: rest ∧
        u = { s with pc := s.pc + 2, randIn := r, schedule := rest }) ∨
      (s.schedule = [] ∧ s.params.host = .ticks ∧
        u = { s with pc := s.pc + 2, randIn := .free s.draws, draws := s.draws + 1 }) ∨
      ∃ r, s.schedule = [] ∧ s.params.host = .unconstrained ∧ Config.hostEvent s.draws = .instrTick r ∧
        u = { s with pc := s.pc + 2, randIn := r, draws := s.draws + 1 }) →
    exec i u = .next t →
    (t.runState = .faulted → step s = .next { t with lastResult := .fault t.faultCause }) ∧
    (t.runState = .running →
      step s = .next { t with
        keyWait := if (∃ x, i = .ldVxK x) ∧ s.keys = 0 then t.keyWait else false
        lastResult := if unmappedWord (hi ++ lo) then .unmapped (hi ++ lo) else .executed (hi ++ lo) })

/-- R44, with the schedule of assumption log 4 (model's choice): a step delivers one event alone and records what it
returned: the oldest pending one; with none pending and the schedule unconstrained (R7, D27), the free one that is next,
whatever it is. -/
def Obligations.StepDeliversOldestEvent : Prop :=
  ∀ (s t : State) (r : EventResult),
    (∀ e rest, s.schedule = e :: rest →
      deliver e { s with schedule := rest } = .next (t, r) → step s = .next { t with lastResult := r }) ∧
    (s.schedule = [] → s.params.host = .unconstrained →
      deliver (Config.hostEvent s.draws) { s with draws := s.draws + 1 } = .next (t, r) →
      step s = .next { t with lastResult := r })

/-- 00_scope.md R7: each parameter is an argument of the model, at its default in the state after reset; no step, a
`Reset` event included, changes one (model's form, assumption log 20). -/
def Obligations.ParametersNeverChange : Prop :=
  State.reset.params = { font := Config.font, subnDest := .y, host := .unconstrained } ∧
  ∀ s t : State, step s = .next t → t.params = s.params

/-- R101: a fetch with PC + 1 above 0xFFF raises FETCH_OOB at PC and changes no state but the fault state; a PC of 0xFFE
fetches. -/
def Obligations.FetchOutOfRangeFaults : Prop :=
  (∀ (s : State) (r : Draw), s.runState = .running → 0xFFF < s.pc.toNat + 1 →
    deliver (.instrTick r) s =
      .next ({ s with randIn := r, runState := .faulted, faultCause := .fetchOob, faultPc := s.pc, faultAddr := s.pc },
        .fault .fetchOob)) ∧
  (∀ s : State, s.pc = 0xFFE → fetch s = some (s.read 0xFFE ++ s.read 0xFFF))

/-- R107: a tick that does not fault sets KEY_WAIT exactly where it executed FX0A with no key pressed; a faulting tick
and a Halted tick leave it unchanged. -/
def Obligations.KeyWaitMirrorsWaiting : Prop :=
  ∀ (s t : State) (r : Draw) (res : EventResult), deliver (.instrTick r) s = .next (t, res) →
    (t.runState = .running →
      (t.keyWait = true ↔ s.keys = 0 ∧ ∃ op x, fetch s = some op ∧ decodeWord op = .ldVxK x)) ∧
    (t.runState = .faulted → t.keyWait = s.keyWait)

/-- R106: an unmapped word adds one to UNMAPPED_COUNT mod 65536, sets LAST_UNMAPPED, and does nothing else. -/
def Obligations.UnmappedWordIsCounted : Prop :=
  ∀ (op : Word) (s : State), unmappedWord op = true → decodeWord op = .unmapped op ∧
    ∃ t, exec (.unmapped op) s = .next t ∧
      t.unmappedCount.toNat = (s.unmappedCount.toNat + 1) % 65536 ∧ t.lastUnmapped = op ∧
      t = { s with unmappedCount := t.unmappedCount, lastUnmapped := t.lastUnmapped }

/-- R109: `rand_in` is read only by CXNN: for every other instruction another value at the input changes nothing else. -/
def Obligations.OnlyRandomReadsRandIn : Prop :=
  ∀ (i : Instr) (s t : State) (r : Draw), (∀ x nn, i ≠ .rndVxNn x nn) → exec i s = .next t →
    exec i { s with randIn := r } = .next { t with randIn := r }

/-! ### Control transfer (41_control_flow.md) -/

/-- R122: 1NNN. -/
def Obligations.JumpGoesToNnn : Prop :=
  ∀ (nnn : BitVec 12) (s : State), decodeWord (wordTNNN 0x1 nnn) = .jpNnn nnn ∧
    ∃ t, exec (.jpNnn nnn) s = .next t ∧ t.pc.toNat = nnn.toNat ∧ t = { s with pc := t.pc }

/-- R124: BNNN; the sum never wraps. -/
def Obligations.JumpOffsetAddsRegisterZero : Prop :=
  ∀ (nnn : BitVec 12) (s : State), decodeWord (wordTNNN 0xB nnn) = .jpV0Nnn nnn ∧
    ∃ t, exec (.jpV0Nnn nnn) s = .next t ∧ t.pc.toNat = nnn.toNat + (s.reg 0).toNat ∧ t = { s with pc := t.pc }

/-- R121 (with decision D9): 2NNN below sixteen entries pushes the advanced PC and jumps; with sixteen it raises
STACK_OVERFLOW with FAULT_ADDR 16, no stack state changed and PC back at the instruction. -/
def Obligations.CallPushesReturnAddress : Prop :=
  ∀ (nnn : BitVec 12) (s : State), decodeWord (wordTNNN 0x2 nnn) = .callNnn nnn ∧
    (s.sp.toNat < 16 → ∃ t, exec (.callNnn nnn) s = .next t ∧
      t.pc.toNat = nnn.toNat ∧ t.sp.toNat = s.sp.toNat + 1 ∧ t.stack[s.sp.toNat]? = some s.pc ∧
      (∀ k : Fin 16, k.val ≠ s.sp.toNat → t.stack[k.val] = s.stack[k.val]) ∧
      t = { s with pc := t.pc, sp := t.sp, stack := t.stack }) ∧
    (s.sp = 16 → exec (.callNnn nnn) s = .next { s with
      pc := s.pc - 2, runState := .faulted, faultCause := .stackOverflow, faultPc := s.pc - 2, faultAddr := 16 })

/-- R123 (with decision D9): 00EE with a non-empty stack pops PC and keeps the entry; with an empty one it raises
STACK_UNDERFLOW with FAULT_ADDR 0, SP still 0 and PC back at the instruction. -/
def Obligations.ReturnPopsReturnAddress : Prop :=
  ∀ s : State, decodeWord 0x00EE = .ret ∧
    (0 < s.sp.toNat → s.sp.toNat ≤ 16 → ∃ t, exec .ret s = .next t ∧
      s.stack[s.sp.toNat - 1]? = some t.pc ∧ t.sp.toNat = s.sp.toNat - 1 ∧ t = { s with pc := t.pc, sp := t.sp }) ∧
    (s.sp = 0 → exec .ret s = .next { s with
      pc := s.pc - 2, runState := .faulted, faultCause := .stackUnderflow, faultPc := s.pc - 2, faultAddr := 0 })

/-- The model's own stop (assumption log 7): outside SP's range 0..16 of R25, CALL and RET stop by name. -/
def Obligations.StackPointerOutOfRangeStops : Prop :=
  ∀ (nnn : BitVec 12) (s : State), 16 < s.sp.toNat →
    exec (.callNnn nnn) s = .fault .stackPointerRange ∧ exec .ret s = .fault .stackPointerRange

/-- 95_test_vectors.md S6: "calling then immediately returning restores PC to the address after the call", for any
nesting depth below 16, wherever the called code stands. -/
def Obligations.CallThenReturnRestores : Prop :=
  ∀ (nnn : BitVec 12) (p : Word) (s t : State), s.sp.toNat < 16 → exec (.callNnn nnn) s = .next t →
    ∃ u, exec .ret { t with pc := p } = .next u ∧ u.pc = s.pc ∧ u.sp = s.sp ∧
      (∀ k : Fin 16, k.val ≠ s.sp.toNat → u.stack[k.val] = s.stack[k.val]) ∧ u = { s with stack := u.stack }

/-- R125 and R126: 3XNN skips exactly where `V[X]` is NN, 4XNN exactly where it is not; a skip adds 2 to PC. -/
def Obligations.ImmediateSkips : Prop :=
  ∀ (x : Reg) (nn : Byte) (s : State),
    decodeWord (wordTXNN 0x3 x nn) = .seVxNn x nn ∧ decodeWord (wordTXNN 0x4 x nn) = .sneVxNn x nn ∧
    (s.reg x = nn → exec (.seVxNn x nn) s = .next { s with pc := s.pc + 2 } ∧ exec (.sneVxNn x nn) s = .next s) ∧
    (s.reg x ≠ nn → exec (.seVxNn x nn) s = .next s ∧ exec (.sneVxNn x nn) s = .next { s with pc := s.pc + 2 })

/-- R127 and R128 (with decision D15): 5XYN skips exactly where `V[X]` is `V[Y]`, 9XYN exactly where it is not, for every
N. -/
def Obligations.RegisterSkips : Prop :=
  ∀ (x y : Reg) (n : BitVec 4) (s : State),
    decodeWord (wordTXYN 0x5 x y n) = .seVxVy x y ∧ decodeWord (wordTXYN 0x9 x y n) = .sneVxVy x y ∧
    (s.reg x = s.reg y →
      exec (.seVxVy x y) s = .next { s with pc := s.pc + 2 } ∧ exec (.sneVxVy x y) s = .next s) ∧
    (s.reg x ≠ s.reg y →
      exec (.seVxVy x y) s = .next s ∧ exec (.sneVxVy x y) s = .next { s with pc := s.pc + 2 })

/-! ### Register arithmetic and logic (42_alu.md) -/

/-- R140 and R141: 6XNN loads NN, 7XNN adds it mod 256; VF is an ordinary register to both. -/
def Obligations.ImmediateLoadAndAdd : Prop :=
  ∀ (x : Reg) (nn : Byte) (s : State),
    decodeWord (wordTXNN 0x6 x nn) = .ldVxNn x nn ∧ decodeWord (wordTXNN 0x7 x nn) = .addVxNn x nn ∧
    (∃ t, exec (.ldVxNn x nn) s = .next t ∧ t.reg x = nn ∧ (∀ r, r ≠ x → t.reg r = s.reg r) ∧
      t = { s with v := t.v }) ∧
    (∃ t, exec (.addVxNn x nn) s = .next t ∧ (t.reg x).toNat = ((s.reg x).toNat + nn.toNat) % 256 ∧
      (∀ r, r ≠ x → t.reg r = s.reg r) ∧ t = { s with v := t.v })

/-- R142 to R145: 8XY0 copies, 8XY1, 8XY2 and 8XY3 are bitwise OR, AND and XOR; VF is not cleared. -/
def Obligations.CopyAndBitwise : Prop :=
  ∀ (x y : Reg) (s : State),
    (decodeWord (wordTXYN 0x8 x y 0x0) = .ldVxVy x y ∧ decodeWord (wordTXYN 0x8 x y 0x1) = .orVxVy x y ∧
      decodeWord (wordTXYN 0x8 x y 0x2) = .andVxVy x y ∧ decodeWord (wordTXYN 0x8 x y 0x3) = .xorVxVy x y) ∧
    (∃ t, exec (.ldVxVy x y) s = .next t ∧ t.reg x = s.reg y ∧
      (∀ r, r ≠ x → t.reg r = s.reg r) ∧ t = { s with v := t.v }) ∧
    (∃ t, exec (.orVxVy x y) s = .next t ∧
      (∀ b < 8, (t.reg x).getLsbD b = ((s.reg x).getLsbD b || (s.reg y).getLsbD b)) ∧
      (∀ r, r ≠ x → t.reg r = s.reg r) ∧ t = { s with v := t.v }) ∧
    (∃ t, exec (.andVxVy x y) s = .next t ∧
      (∀ b < 8, (t.reg x).getLsbD b = ((s.reg x).getLsbD b && (s.reg y).getLsbD b)) ∧
      (∀ r, r ≠ x → t.reg r = s.reg r) ∧ t = { s with v := t.v }) ∧
    (∃ t, exec (.xorVxVy x y) s = .next t ∧
      (∀ b < 8, (t.reg x).getLsbD b = ((s.reg x).getLsbD b ^^ (s.reg y).getLsbD b)) ∧
      (∀ r, r ≠ x → t.reg r = s.reg r) ∧ t = { s with v := t.v })

/-- R146 (with decision D10): 8XY4 with the carry flag, by R146's own cases of X and Y against F. -/
def Obligations.AddSetsCarryThenSum : Prop :=
  ∀ (x y : Reg) (s : State), decodeWord (wordTXYN 0x8 x y 0x4) = .addVxVy x y ∧
    ∃ t, exec (.addVxVy x y) s = .next t ∧
      (∀ c : Nat, c = (if (s.reg x).toNat + (s.reg y).toNat > 255 then 1 else 0) →
        (x ≠ vf → y ≠ vf →
          (t.reg x).toNat = ((s.reg x).toNat + (s.reg y).toNat) % 256 ∧ (t.reg vf).toNat = c) ∧
        (x = vf → y ≠ vf → (t.reg vf).toNat = (c + (s.reg y).toNat) % 256) ∧
        (x ≠ vf → y = vf → (t.reg vf).toNat = c ∧ (t.reg x).toNat = ((s.reg x).toNat + c) % 256) ∧
        (x = vf → y = vf → (t.reg vf).toNat = 2 * c)) ∧
      (∀ r, r ≠ x → r ≠ vf → t.reg r = s.reg r) ∧ t = { s with v := t.v }

/-- R147 (with decision D10): 8XY5 with the strict comparison, by R147's own cases of X and Y against F. `256 - y` stands
for `- y` in arithmetic mod 256. -/
def Obligations.SubtractSetsGreaterThenDifference : Prop :=
  ∀ (x y : Reg) (s : State), decodeWord (wordTXYN 0x8 x y 0x5) = .subVxVy x y ∧
    ∃ t, exec (.subVxVy x y) s = .next t ∧
      (∀ b : Nat, b = (if (s.reg x).toNat > (s.reg y).toNat then 1 else 0) →
        (x ≠ vf → y ≠ vf →
          (t.reg x).toNat = ((s.reg x).toNat + (256 - (s.reg y).toNat)) % 256 ∧ (t.reg vf).toNat = b) ∧
        (x = vf → y ≠ vf → (t.reg vf).toNat = (b + (256 - (s.reg y).toNat)) % 256) ∧
        (x ≠ vf → y = vf → (t.reg vf).toNat = b ∧ (t.reg x).toNat = ((s.reg x).toNat + (256 - b)) % 256) ∧
        (x = vf → y = vf → (t.reg vf).toNat = 0)) ∧
      (∀ r, r ≠ x → r ≠ vf → t.reg r = s.reg r) ∧ t = { s with v := t.v }

/-- R149 (with decisions D10 and D32): with SUBN_DEST at its default 8XY7 writes `V[Y]`, by R149's own cases of X and Y
against F. -/
def Obligations.ReverseSubtractWritesVy : Prop :=
  ∀ (x y : Reg) (s : State), s.params.subnDest = .y → decodeWord (wordTXYN 0x8 x y 0x7) = .subnVxVy x y ∧
    ∃ t, exec (.subnVxVy x y) s = .next t ∧
      (∀ b : Nat, b = (if (s.reg y).toNat > (s.reg x).toNat then 1 else 0) →
        (x ≠ vf → y ≠ vf →
          (t.reg y).toNat = ((s.reg y).toNat + (256 - (s.reg x).toNat)) % 256 ∧ (t.reg vf).toNat = b) ∧
        (x ≠ vf → y = vf → (t.reg vf).toNat = (b + (256 - (s.reg x).toNat)) % 256) ∧
        (x = vf → y ≠ vf → (t.reg vf).toNat = b ∧ (t.reg y).toNat = ((s.reg y).toNat + (256 - b)) % 256) ∧
        (x = vf → y = vf → (t.reg vf).toNat = 0)) ∧
      (∀ r, r ≠ y → r ≠ vf → t.reg r = s.reg r) ∧ t = { s with v := t.v }

/-- The parameter SUBN_DEST (42_alu.md, decisions D10 and D32) is `Y` by default; at its other value 8XY7
writes VF and then `V[X] <- (V[Y] - V[X]) mod 256`, which reads the new VF. The spec has that value "from general
knowledge, not in source" (assumption log 3). -/
def Obligations.ReverseSubtractParameterX : Prop :=
  State.reset.params.subnDest = .y ∧
  ∀ (x y : Reg) (s : State), s.params.subnDest = .x →
    ∃ t, exec (.subnVxVy x y) s = .next t ∧
      (∀ b : Nat, b = (if (s.reg y).toNat > (s.reg x).toNat then 1 else 0) →
        (x ≠ vf → y ≠ vf →
          (t.reg x).toNat = ((s.reg y).toNat + (256 - (s.reg x).toNat)) % 256 ∧ (t.reg vf).toNat = b) ∧
        (x ≠ vf → y = vf → (t.reg vf).toNat = b ∧ (t.reg x).toNat = (b + (256 - (s.reg x).toNat)) % 256) ∧
        (x = vf → y ≠ vf → (t.reg vf).toNat = ((s.reg y).toNat + (256 - b)) % 256) ∧
        (x = vf → y = vf → (t.reg vf).toNat = 0)) ∧
      (∀ r, r ≠ x → r ≠ vf → t.reg r = s.reg r) ∧ t = { s with v := t.v }

/-- The spec's inference in R149, for SUBN_DEST at its default: "with this destination, 8XY7 computes exactly what 8YX5
computes". -/
def Obligations.ReverseSubtractIsSwappedSubtract : Prop :=
  ∀ (x y : Reg) (s : State), s.params.subnDest = .y → exec (.subnVxVy x y) s = exec (.subVxVy y x) s

/-- R148 and R150 (with decisions D10 and D11): the shifts by one of `V[X]`, VF taking the bit shifted out first; Y is
ignored. -/
def Obligations.ShiftsSetBitOutThenResult : Prop :=
  ∀ (x y : Reg) (s : State),
    decodeWord (wordTXYN 0x8 x y 0x6) = .shrVxVy x y ∧ decodeWord (wordTXYN 0x8 x y 0xE) = .shlVxVy x y ∧
    (∃ t, exec (.shrVxVy x y) s = .next t ∧
      (x ≠ vf → (t.reg x).toNat = (s.reg x).toNat / 2 ∧ (t.reg vf).toNat = (s.reg x).toNat % 2) ∧
      (x = vf → (t.reg vf).toNat = 0) ∧
      (∀ r, r ≠ x → r ≠ vf → t.reg r = s.reg r) ∧ t = { s with v := t.v }) ∧
    (∃ t, exec (.shlVxVy x y) s = .next t ∧
      (x ≠ vf → (t.reg x).toNat = 2 * (s.reg x).toNat % 256 ∧ (t.reg vf).toNat = (s.reg x).toNat / 128) ∧
      (x = vf → (t.reg vf).toNat = 2 * ((s.reg x).toNat / 128)) ∧
      (∀ r, r ≠ x → r ≠ vf → t.reg r = s.reg r) ∧ t = { s with v := t.v })

/-- R151 (with decision D21): CXNN takes the byte at `rand_in` under the mask NN, whatever that byte is. -/
def Obligations.RandomByteUnderMask : Prop :=
  ∀ (x : Reg) (nn : Byte) (s : State), decodeWord (wordTXNN 0xC x nn) = .rndVxNn x nn ∧
    ∃ t, exec (.rndVxNn x nn) s = .next t ∧
      (∀ b < 8, (t.reg x).getLsbD b = (s.randIn.value.getLsbD b && nn.getLsbD b)) ∧
      (∀ r, r ≠ x → t.reg r = s.reg r) ∧ t = { s with v := t.v }

/-! ### The address register and memory transfer (43_index_memory.md, 20_memory.md) -/

/-- R170, R171 (with decision D24) and R172: the three writers of I. -/
def Obligations.AddressRegisterWrites : Prop :=
  ∀ (x : Reg) (nnn : BitVec 12) (s : State),
    decodeWord (wordTNNN 0xA nnn) = .ldINnn nnn ∧ decodeWord (wordTXNN 0xF x 0x1E) = .addIVx x ∧
    decodeWord (wordTXNN 0xF x 0x29) = .ldFVx x ∧
    (∃ t, exec (.ldINnn nnn) s = .next t ∧ t.i.toNat = nnn.toNat ∧ t = { s with i := t.i }) ∧
    (∃ t, exec (.addIVx x) s = .next t ∧ t.i.toNat = (s.i.toNat + (s.reg x).toNat) % 65536 ∧ t = { s with i := t.i }) ∧
    (∃ t, exec (.ldFVx x) s = .next t ∧ t.i.toNat = (s.reg x).toNat * 5 ∧ t = { s with i := t.i })

/-- R173 (with decision D6): FX33 writes the three decimal digits of `V[X]` at I, I+1, I+2 and no other byte. -/
def Obligations.BcdWritesThreeDigits : Prop :=
  ∀ (x : Reg) (s : State), s.memWf → decodeWord (wordTXNN 0xF x 0x33) = .ldBVx x ∧
    (s.i.toNat + 2 ≤ 0xFFF → ∃ t, exec (.ldBVx x) s = .next t ∧
      (t.read s.i.toNat).toNat = (s.reg x).toNat / 100 ∧
      (t.read (s.i.toNat + 1)).toNat = (s.reg x).toNat / 10 % 10 ∧
      (t.read (s.i.toNat + 2)).toNat = (s.reg x).toNat % 10 ∧
      (∀ a, a < s.i.toNat ∨ s.i.toNat + 2 < a → t.read a = s.read a) ∧ t = { s with mem := t.mem }) ∧
    (0xFFF < s.i.toNat + 2 → exec (.ldBVx x) s = .next { s with
      pc := s.pc - 2, runState := .faulted, faultCause := .memOob, faultPc := s.pc - 2
      faultAddr := BitVec.ofNat 16 (max s.i.toNat 0x1000) })

/-- R174 (with decision D6): FX55 stores `V[0..X]` at I upwards and no other byte; I is unchanged. -/
def Obligations.StoreWritesRegisters : Prop :=
  ∀ (x : Reg) (s : State), s.memWf → decodeWord (wordTXNN 0xF x 0x55) = .ldMemIVx x ∧
    (s.i.toNat + x.val ≤ 0xFFF → ∃ t, exec (.ldMemIVx x) s = .next t ∧
      (∀ k : Reg, k ≤ x → t.read (s.i.toNat + k.val) = s.reg k) ∧
      (∀ a, a < s.i.toNat ∨ s.i.toNat + x.val < a → t.read a = s.read a) ∧ t = { s with mem := t.mem }) ∧
    (0xFFF < s.i.toNat + x.val → exec (.ldMemIVx x) s = .next { s with
      pc := s.pc - 2, runState := .faulted, faultCause := .memOob, faultPc := s.pc - 2
      faultAddr := BitVec.ofNat 16 (max s.i.toNat 0x1000) })

/-- R175 (with decision D6): FX65 loads `V[0..X]` from I upwards and no other register; I and memory are unchanged. -/
def Obligations.LoadReadsRegisters : Prop :=
  ∀ (x : Reg) (s : State), decodeWord (wordTXNN 0xF x 0x65) = .ldVxMemI x ∧
    (s.i.toNat + x.val ≤ 0xFFF → ∃ t, exec (.ldVxMemI x) s = .next t ∧
      (∀ k : Reg, k ≤ x → t.reg k = s.read (s.i.toNat + k.val)) ∧
      (∀ k : Reg, x < k → t.reg k = s.reg k) ∧ t = { s with v := t.v }) ∧
    (0xFFF < s.i.toNat + x.val → exec (.ldVxMemI x) s = .next { s with
      pc := s.pc - 2, runState := .faulted, faultCause := .memOob, faultPc := s.pc - 2
      faultAddr := BitVec.ofNat 16 (max s.i.toNat 0x1000) })

/-- 95_test_vectors.md S8: storing V[0..X], then loading into a zeroed register file, "reproduces the original values,
inclusive of index X". -/
def Obligations.StoreThenLoadReproduces : Prop :=
  ∀ (x : Reg) (s t : State), s.memWf → s.i.toNat + x.val ≤ 0xFFF → exec (.ldMemIVx x) s = .next t →
    ∃ u, exec (.ldVxMemI x) { t with v := Vector.replicate 16 0 } = .next u ∧
      (∀ k : Reg, k ≤ x → u.reg k = s.reg k) ∧ (∀ k : Reg, x < k → u.reg k = 0) ∧ u.mem = t.mem

/-- 20_memory.md R62 (with decision D30) for FX55: bytes it stores are the ones a later fetch of their address reads,
its own address included. -/
def Obligations.StoredBytesAreFetched : Prop :=
  ∀ (x k : Reg) (s t : State), s.memWf → s.i.toNat + x.val ≤ 0xFFF → k.val < x.val →
    exec (.ldMemIVx x) s = .next t →
    fetch { t with pc := s.i + BitVec.ofNat 16 k.val } = some (s.reg k ++ s.reg (k + 1))

/-! ### Display (44_display.md) -/

/-- R190: 00E0 clears every pixel and nothing else; VF is unchanged. -/
def Obligations.ClearDarkensEveryPixel : Prop :=
  ∀ s : State, decodeWord 0x00E0 = .cls ∧
    ∃ t, exec .cls s = .next t ∧ (∀ x y, t.display.pixel x y = false) ∧ t = { s with display := t.display }

/-- R192, R193 (with decision D18), R194 and R195: DXYN XORs bit `7 - b` of row `r` into the pixel at
`((x0 + b) mod 64, (y0 + r) mod 32)`, touches no other pixel, and sets VF to 1 exactly where a lit pixel is erased; the
origin is read before VF is written (decision D19). The order of the bits is R193's (assumption log 15). -/
def Obligations.DrawCompositesSprite : Prop :=
  ∀ (x y : Reg) (n : BitVec 4) (s : State) (x0 y0 : Nat),
    x0 = (s.reg x).toNat % 64 → y0 = (s.reg y).toNat % 32 → n = 0 ∨ s.i.toNat + n.toNat - 1 ≤ 0xFFF →
    decodeWord (wordTXYN 0xD x y n) = .drwVxVyN x y n ∧
    ∃ t, exec (.drwVxVyN x y n) s = .next t ∧
      (∀ r b, r < n.toNat → b < 8 →
        t.display.pixel (Fin.ofNat 64 (x0 + b)) (Fin.ofNat 32 (y0 + r)) =
          (s.display.pixel (Fin.ofNat 64 (x0 + b)) (Fin.ofNat 32 (y0 + r)) ^^
            (s.read (s.i.toNat + r)).getLsbD (7 - b))) ∧
      (∀ px py, (∀ r b, r < n.toNat → b < 8 → ¬ (px = Fin.ofNat 64 (x0 + b) ∧ py = Fin.ofNat 32 (y0 + r))) →
        t.display.pixel px py = s.display.pixel px py) ∧
      (t.reg vf = 0 ∨ t.reg vf = 1) ∧
      (t.reg vf = 1 ↔ ∃ r b, r < n.toNat ∧ b < 8 ∧
        s.display.pixel (Fin.ofNat 64 (x0 + b)) (Fin.ofNat 32 (y0 + r)) = true ∧
        t.display.pixel (Fin.ofNat 64 (x0 + b)) (Fin.ofNat 32 (y0 + r)) = false) ∧
      (∀ r, r ≠ vf → t.reg r = s.reg r) ∧ t = { s with v := t.v, display := t.display }

/-- R191's corner case "drawing the same sprite twice at the same place restores the display", with neither origin
register VF (VF changes between the two draws); the second draw sets VF exactly where a set sprite bit met a dark pixel
the first time (assumption log 18). -/
def Obligations.DrawTwiceRestores : Prop :=
  ∀ (x y : Reg) (n : BitVec 4) (s t : State), x ≠ vf → y ≠ vf → n = 0 ∨ s.i.toNat + n.toNat - 1 ≤ 0xFFF →
    exec (.drwVxVyN x y n) s = .next t →
    ∃ u, exec (.drwVxVyN x y n) t = .next u ∧ u.display = s.display ∧
      (u.reg vf = 1 ↔ ∃ r b, r < n.toNat ∧ b < 8 ∧
        s.display.pixel (Fin.ofNat 64 ((s.reg x).toNat % 64 + b)) (Fin.ofNat 32 ((s.reg y).toNat % 32 + r)) = false ∧
        (s.read (s.i.toNat + r)).getLsbD (7 - b) = true)

/-! ### Timers and keypad (45_timers_keys.md) -/

/-- R210 and R211: FX07 reads DT, FX15 writes it. -/
def Obligations.DelayTimerReadAndWrite : Prop :=
  ∀ (x : Reg) (s : State),
    decodeWord (wordTXNN 0xF x 0x07) = .ldVxDt x ∧ decodeWord (wordTXNN 0xF x 0x15) = .ldDtVx x ∧
    (∃ t, exec (.ldVxDt x) s = .next t ∧ t.reg x = s.dt ∧ (∀ r, r ≠ x → t.reg r = s.reg r) ∧
      t = { s with v := t.v }) ∧
    (∃ t, exec (.ldDtVx x) s = .next t ∧ t.dt = s.reg x ∧ t = { s with dt := t.dt })

/-- R212 (with decision D12): FX18 sets ST, and `sound_active` is then 1 until `V[X]` TimerTicks have run. -/
def Obligations.SoundLastsForTimerTicks : Prop :=
  ∀ (x : Reg) (s : State), decodeWord (wordTXNN 0xF x 0x18) = .ldStVx x ∧
    ∃ t, exec (.ldStVx x) s = .next t ∧ t.st = s.reg x ∧ t = { s with st := t.st } ∧
      (s.runState = .running → ∀ k : Nat,
        ((timerTickEvent^[k] t).soundActive = true ↔ k < (s.reg x).toNat))

/-- R213, R214 and R216 (with decision D31): EX9E skips exactly where the key `V[X]` is pressed, EXA1 exactly where it is
not; a code above 15 names no pressed key. -/
def Obligations.KeySkips : Prop :=
  ∀ (x : Reg) (s : State),
    decodeWord (wordTXNN 0xE x 0x9E) = .skpVx x ∧ decodeWord (wordTXNN 0xE x 0xA1) = .sknpVx x ∧
    ((s.reg x).toNat ≤ 0xF ∧ s.keys.getLsbD (s.reg x).toNat = true →
      exec (.skpVx x) s = .next { s with pc := s.pc + 2 } ∧ exec (.sknpVx x) s = .next s) ∧
    (¬ ((s.reg x).toNat ≤ 0xF ∧ s.keys.getLsbD (s.reg x).toNat = true) →
      exec (.skpVx x) s = .next s ∧ exec (.sknpVx x) s = .next { s with pc := s.pc + 2 })

/-- R215 (with decision D13): FX0A with no key pressed rewinds PC by 2 and sets KEY_WAIT; with some pressed, `V[X]` takes
the lowest of them. -/
def Obligations.WaitForKeyTakesLowest : Prop :=
  ∀ (x : Reg) (s : State), decodeWord (wordTXNN 0xF x 0x0A) = .ldVxK x ∧
    (s.keys = 0 → exec (.ldVxK x) s = .next { s with pc := s.pc - 2, keyWait := true }) ∧
    (s.keys ≠ 0 → ∃ t, exec (.ldVxK x) s = .next t ∧
      s.keys.getLsbD (t.reg x).toNat = true ∧ (∀ k < (t.reg x).toNat, s.keys.getLsbD k = false) ∧
      (∀ r, r ≠ x → t.reg r = s.reg r) ∧ t = { s with v := t.v })

/-- R268: "While no key is pressed, each InstrTick rewinds PC and nothing else changes", for any number of ticks at an
FX0A from a host that delivers nothing else (KEY_WAIT and the model's own input and result fields apart). -/
def Obligations.BusyWaitChangesNothing : Prop :=
  ∀ (n : Nat) (s : State) (op : Word) (x : Reg), s.runState = .running → s.schedule = [] →
    s.params.host = .ticks → s.keys = 0 → fetch s = some op → decodeWord op = .ldVxK x →
    Host.Core.run Sys2Proof.core (n + 1) s = .next { s with
      keyWait := true, randIn := .free (s.draws + n), draws := s.draws + n + 1, lastResult := .executed op }

/-! ### Faults and host events (60_exceptions.md, 70_reset_and_hazards.md) -/

/-- 20_memory.md R53 (with decisions D5 and D6): an access above 0xFFF raises MEM_OOB at the lowest such address of the
range, and no state but the fault state changes (PC goes back to the instruction); for fetch the fault is FETCH_OOB at
PC. -/
def Obligations.OutOfRangeAccessFaults : Prop :=
  ∀ (x y : Reg) (n : BitVec 4) (s t : State),
    t = { s with
      pc := s.pc - 2, runState := .faulted, faultCause := .memOob, faultPc := s.pc - 2
      faultAddr := BitVec.ofNat 16 (max s.i.toNat 0x1000) } →
    (n ≠ 0 → 0xFFF < s.i.toNat + n.toNat - 1 → exec (.drwVxVyN x y n) s = .next t) ∧
    (0xFFF < s.i.toNat + 3 - 1 → exec (.ldBVx x) s = .next t) ∧
    (0xFFF < s.i.toNat + (x.val + 1) - 1 → exec (.ldMemIVx x) s = .next t ∧ exec (.ldVxMemI x) s = .next t) ∧
    (∀ r, s.runState = .running → 0xFFF < s.pc.toNat + 1 → ∃ u, deliver (.instrTick r) s = .next (u, .fault .fetchOob) ∧
      u = { s with randIn := r, runState := .faulted, faultCause := .fetchOob, faultPc := s.pc, faultAddr := s.pc })

/-- R232 (with decisions D6 and D7): a tick that returns Fault leaves exactly the state before it, with the fault record
written and RUN_STATE FAULTED; FAULT_PC is the address of the instruction, which PC still holds. -/
def Obligations.FaultsArePrecise : Prop :=
  ∀ (s t : State) (r : Draw) (c : FaultCause), deliver (.instrTick r) s = .next (t, .fault c) →
    s.runState = .running ∧
    t = { s with randIn := r, runState := .faulted, faultCause := c, faultPc := s.pc, faultAddr := t.faultAddr }

/-- R230 (with decision D7): the codes; with NONE the record is 0; and a tick from RUNNING returns Fault with a cause, a
FAULT_PC and a FAULT_ADDR exactly where a row of the table says so. -/
def Obligations.FaultRecordFollowsTable : Prop :=
  (FaultCause.code .none = 0 ∧ FaultCause.code .fetchOob = 1 ∧ FaultCause.code .memOob = 2 ∧
    FaultCause.code .stackOverflow = 3 ∧ FaultCause.code .stackUnderflow = 4) ∧
  (∀ s : State, s.Inv → s.faultCause = .none → s.faultPc = 0 ∧ s.faultAddr = 0) ∧
  ∀ (s : State) (r : Draw) (c : FaultCause) (a : Word), s.runState = .running →
    ((∃ t, deliver (.instrTick r) s = .next (t, .fault c) ∧
        t.faultCause = c ∧ t.faultPc = s.pc ∧ t.faultAddr = a) ↔
      (c = .fetchOob ∧ 0xFFF < s.pc.toNat + 1 ∧ a = s.pc) ∨
      ∃ op, fetch s = some op ∧
        ((c = .memOob ∧ a.toNat = max s.i.toNat 0x1000 ∧
            ((∃ x y n, decodeWord op = .drwVxVyN x y n ∧ n ≠ 0 ∧ 0xFFF < s.i.toNat + n.toNat - 1) ∨
              (∃ x, decodeWord op = .ldBVx x ∧ 0xFFF < s.i.toNat + 2) ∨
              (∃ x, decodeWord op = .ldMemIVx x ∧ 0xFFF < s.i.toNat + x.val) ∨
              ∃ x, decodeWord op = .ldVxMemI x ∧ 0xFFF < s.i.toNat + x.val)) ∨
          (c = .stackOverflow ∧ a = 16 ∧ s.sp = 16 ∧ ∃ nnn, decodeWord op = .callNnn nnn) ∨
          (c = .stackUnderflow ∧ a = 0 ∧ s.sp = 0 ∧ decodeWord op = .ret)))

/-- The spec's inference R231: only the instructions of R230's table raise; any other leaves RUN_STATE and the fault
record as they were. -/
def Obligations.OnlyListedInstructionsRaise : Prop :=
  ∀ (i : Instr) (s t : State), i.mayRaise = false → exec i s = .next t →
    t.runState = s.runState ∧ t.faultCause = s.faultCause ∧ t.faultPc = s.faultPc ∧ t.faultAddr = s.faultAddr

/-- R233, R234 and R108 (with decision D8): in the faulted state an instruction tick returns Halted and changes nothing,
TimerTick decrements nothing and returns the frozen display, keys and Load act as usual, the record is kept, and only
Reset leaves. -/
def Obligations.FaultedStateEvents : Prop :=
  ∀ s : State, s.runState = .faulted →
    (∀ r, deliver (.instrTick r) s = .next ({ s with randIn := r }, .halted)) ∧
    deliver .timerTick s = .next (s, .frame s.display) ∧
    (∀ e t res, e ≠ .reset → deliver e s = .next (t, res) →
      t.runState = .faulted ∧
      t = { s with keys := t.keys, mem := t.mem, loadStatus := t.loadStatus, randIn := t.randIn }) ∧
    (∀ k t res, deliver (.keyDown k) s = .next (t, res) → t.keys.getLsbD k.val = true) ∧
    (∀ k t res, deliver (.keyUp k) s = .next (t, res) → t.keys.getLsbD k.val = false) ∧
    (∀ rom t res, deliver (.load rom) s = .next (t, res) → (t.loadStatus = .loaded ↔ rom.length ≤ 3584)) ∧
    (∀ t res, deliver .reset s = .next (t, res) → t.runState = .running)

/-- R234 (with decision D8), over runs: any number of steps from a faulted state keeps it faulted with the same fault
record as long as no Reset is scheduled: none is pending, and where an unconstrained host follows the pending events the
run does not outlast them. -/
def Obligations.FaultedUntilReset : Prop :=
  ∀ (n : Nat) (s : State), s.runState = .faulted → Event.reset ∉ s.schedule →
    (s.params.host = .unconstrained → n ≤ s.schedule.length) →
    ∃ t, Host.Core.run Sys2Proof.core n s = .next t ∧ t.runState = .faulted ∧
      t.faultCause = s.faultCause ∧ t.faultPc = s.faultPc ∧ t.faultAddr = s.faultAddr ∧ t.pc = s.pc

/-- R240: TimerTick decrements DT and ST where they are above 0 in RUNNING, and returns the display; nothing else
changes. -/
def Obligations.TimerTickCountsDown : Prop :=
  ∀ s : State, ∃ t, deliver .timerTick s = .next (t, .frame t.display) ∧ t = { s with dt := t.dt, st := t.st } ∧
    (s.runState = .running → t.dt.toNat = s.dt.toNat - 1 ∧ t.st.toNat = s.st.toNat - 1) ∧
    (s.runState = .faulted → t.dt = s.dt ∧ t.st = s.st)

/-- R243, and R244: KeyDown(k) sets KEYS[k], KeyUp(k) clears it, and nothing else changes. -/
def Obligations.KeyEventsSetOneKey : Prop :=
  ∀ (k : Key) (s : State),
    (∃ t, deliver (.keyDown k) s = .next (t, .nothing) ∧
      (∀ j : Key, t.keys.getLsbD j.val = if j = k then true else s.keys.getLsbD j.val) ∧ t = { s with keys := t.keys }) ∧
    (∃ t, deliver (.keyUp k) s = .next (t, .nothing) ∧
      (∀ j : Key, t.keys.getLsbD j.val = if j = k then false else s.keys.getLsbD j.val) ∧ t = { s with keys := t.keys })

/-- R245 (with decision D25): Load of at most 3584 bytes writes the image at 0x200 and no other byte, keeps every
register and the run state, and returns Loaded; a longer one changes LOAD_STATUS alone and returns Rejected. -/
def Obligations.LoadCopiesOrRejects : Prop :=
  ∀ (rom : List Byte) (s : State), s.memWf →
    (rom.length ≤ 0xE00 → ∃ t, deliver (.load rom) s = .next (t, .loaded) ∧
      (∀ k (h : k < rom.length), t.read (0x200 + k) = rom[k]) ∧
      (∀ a, a < 0x200 ∨ 0x200 + rom.length ≤ a → t.read a = s.read a) ∧
      t.loadStatus = .loaded ∧ t = { s with mem := t.mem, loadStatus := t.loadStatus }) ∧
    (0xE00 < rom.length → deliver (.load rom) s = .next ({ s with loadStatus := .rejected }, .rejected))

/-- R260 and R38 (with decisions D1 to D4): what Reset leaves, in any state. The 80 bytes at 0 are the parameter FONT,
whatever it is (assumption log 2). -/
def Obligations.ResetSetsEveryValue : Prop :=
  ∀ s : State, ∃ t, deliver .reset s = .next (t, .nothing) ∧
    (∀ r, t.reg r = 0) ∧ t.i = 0 ∧ t.pc = 0x200 ∧ t.sp = 0 ∧ (∀ k : Fin 16, t.stack[k.val] = 0) ∧
    t.dt = 0 ∧ t.st = 0 ∧
    (∀ a (h : a < 0x50), t.read a = s.params.font[a]) ∧
    (∀ a, 0x50 ≤ a → a ≤ 0xFFF → t.read a = 0) ∧
    (∀ x y, t.display.pixel x y = false) ∧ t.keys = 0 ∧ t.runState = .running ∧
    t.faultCause = .none ∧ t.faultPc = 0 ∧ t.faultAddr = 0 ∧ t.unmappedCount = 0 ∧ t.lastUnmapped = 0 ∧
    t.keyWait = false ∧ t.loadStatus = .none

/-- R270's "parked": at a jump to itself an instruction tick leaves all state unchanged, KEY_WAIT being already 0
(assumption log 17); a faulted state is not parked (model's choice, assumption log 19). -/
def Obligations.ParkedTickChangesNothing : Prop :=
  ∀ (s : State) (r : Draw), s.isParked → s.keyWait = false →
    ∃ op, fetch s = some op ∧ deliver (.instrTick r) s = .next ({ s with randIn := r }, .executed op)

/-! ### Which instruction writes what (10_state.md R37) -/

/-- The registers' frame: an instruction leaves every V register unchanged but its destination (8XY7: as
SUBN_DEST says) and, for the six of R21, VF. -/
def Obligations.RegisterFrame : Prop :=
  ∀ (i : Instr) (s t : State) (r : Reg), exec i s = .next t → i.mayWriteReg s.params.subnDest r = false → t.reg r = s.reg r

/-- Memory's frame: FX33 and FX55 alone store, at I upwards, 3 and X + 1 bytes; every other byte, and for every other
instruction every byte, reads as before. -/
def Obligations.MemoryFrame : Prop :=
  ∀ (i : Instr) (s t : State) (a : Nat), exec i s = .next t → a < s.i.toNat ∨ s.i.toNat + i.storeCount ≤ a →
    t.read a = s.read a

/-- The frame of all other state: who writes I, SP and the stack, the display, the timers and the status state; no
instruction writes KEYS, LOAD_STATUS, a parameter or the model's own fields. -/
def Obligations.OtherStateFrame : Prop :=
  ∀ (i : Instr) (s t : State), exec i s = .next t →
    ((∀ nnn, i ≠ .ldINnn nnn) → (∀ x, i ≠ .addIVx x) → (∀ x, i ≠ .ldFVx x) → t.i = s.i) ∧
    ((∀ nnn, i ≠ .callNnn nnn) → i ≠ .ret → t.sp = s.sp) ∧
    ((∀ nnn, i ≠ .callNnn nnn) → t.stack = s.stack) ∧
    (i ≠ .cls → (∀ x y n, i ≠ .drwVxVyN x y n) → t.display = s.display) ∧
    ((∀ x, i ≠ .ldDtVx x) → t.dt = s.dt) ∧
    ((∀ x, i ≠ .ldStVx x) → t.st = s.st) ∧
    ((∀ x, i ≠ .ldVxK x) → t.keyWait = s.keyWait) ∧
    ((∀ op, i ≠ .unmapped op) → t.unmappedCount = s.unmappedCount ∧ t.lastUnmapped = s.lastUnmapped) ∧
    t.keys = s.keys ∧ t.loadStatus = s.loadStatus ∧ t.params = s.params ∧ t.randIn = s.randIn ∧ t.draws = s.draws ∧
    t.schedule = s.schedule ∧ t.lastResult = s.lastResult

/-! ### The legal states -/

/-- The state after reset is legal. -/
def Obligations.ResetStateIsLegal : Prop := State.reset.Inv

/-- Every step from a legal state, whichever event is due, gives a legal state: memory in canonical form, SP in 0..16,
stack entries up to 0x1000, PC up to 0x10FE, the fault record agreeing with RUN_STATE. -/
def Obligations.StepKeepsLegal : Prop :=
  ∀ s t : State, s.Inv → step s = .next t → t.Inv

/-- From a legal state no step stops the model: no fault of the model's own and no refusal, whatever the memory holds
and whichever event is due (R76, R105). -/
def Obligations.LegalStepsNeverStop : Prop :=
  ∀ s : State, s.Inv → ∃ t, step s = .next t
end

