-- ==== Sys2Proof/Laws/Decode.lean ====
section
/-! SUPPORT. The bits and the fields of the three opcode layouts (30_encoding.md R71). -/

namespace Sys2Proof

/-! ### Bits -/

theorem getLsbD_wordTNNN (t : BitVec 4) (nnn : BitVec 12) (j : Nat) :
    (wordTNNN t nnn).getLsbD j = if j < 12 then nnn.getLsbD j else t.getLsbD (j - 12) :=
  BitVec.getLsbD_append

theorem getLsbD_wordTXNN (t : BitVec 4) (x : Reg) (nn : Byte) (j : Nat) :
    (wordTXNN t x nn).getLsbD j =
      if j < 8 then nn.getLsbD j
      else if j - 8 < 4 then (BitVec.ofFin (w := 4) x).getLsbD (j - 8) else t.getLsbD (j - 8 - 4) := by
  refine (BitVec.getLsbD_append (x := t ++ BitVec.ofFin (w := 4) x) (y := nn)).trans ?_
  rw [BitVec.getLsbD_append]

theorem getLsbD_wordTXYN (t : BitVec 4) (x y : Reg) (n : BitVec 4) (j : Nat) :
    (wordTXYN t x y n).getLsbD j =
      if j < 4 then n.getLsbD j
      else if j - 4 < 4 then (BitVec.ofFin (w := 4) y).getLsbD (j - 4)
      else if j - 4 - 4 < 4 then (BitVec.ofFin (w := 4) x).getLsbD (j - 4 - 4)
      else t.getLsbD (j - 4 - 4 - 4) := by
  refine (BitVec.getLsbD_append (x := t ++ BitVec.ofFin (w := 4) x ++ BitVec.ofFin (w := 4) y) (y := n)).trans ?_
  rw [BitVec.getLsbD_append, BitVec.getLsbD_append]

theorem getLsbD_bigEndian (hi lo : Byte) (j : Nat) :
    (bigEndian hi lo).getLsbD j = if j < 8 then lo.getLsbD j else hi.getLsbD (j - 8) :=
  BitVec.getLsbD_append

/-! ### Fields -/

@[simp] theorem fieldT_wordTNNN (t : BitVec 4) (nnn : BitVec 12) : fieldT (wordTNNN t nnn) = t := by
  apply BitVec.eq_of_getLsbD_eq; intro j hj
  simp [fieldT, getLsbD_wordTNNN, hj]

@[simp] theorem fieldNNN_wordTNNN (t : BitVec 4) (nnn : BitVec 12) : fieldNNN (wordTNNN t nnn) = nnn := by
  apply BitVec.eq_of_getLsbD_eq; intro j hj
  simp [fieldNNN, getLsbD_wordTNNN, hj]

@[simp] theorem fieldT_wordTXNN (t : BitVec 4) (x : Reg) (nn : Byte) : fieldT (wordTXNN t x nn) = t := by
  apply BitVec.eq_of_getLsbD_eq; intro j hj
  simp [fieldT, getLsbD_wordTXNN, hj, show ¬ 12 + j < 8 by omega, show ¬ 12 + j - 8 < 4 by omega,
    show 12 + j - 8 - 4 = j by omega]

@[simp] theorem fieldX_wordTXNN (t : BitVec 4) (x : Reg) (nn : Byte) : fieldX (wordTXNN t x nn) = x := by
  have : (wordTXNN t x nn).extractLsb' 8 4 = BitVec.ofFin (w := 4) x := by
    apply BitVec.eq_of_getLsbD_eq; intro j hj
    simp [getLsbD_wordTXNN, hj]
  simp [fieldX, this]

@[simp] theorem fieldNN_wordTXNN (t : BitVec 4) (x : Reg) (nn : Byte) : fieldNN (wordTXNN t x nn) = nn := by
  apply BitVec.eq_of_getLsbD_eq; intro j hj
  simp [fieldNN, getLsbD_wordTXNN, hj]

@[simp] theorem fieldT_wordTXYN (t : BitVec 4) (x y : Reg) (n : BitVec 4) : fieldT (wordTXYN t x y n) = t := by
  apply BitVec.eq_of_getLsbD_eq; intro j hj
  simp [fieldT, getLsbD_wordTXYN, hj, show ¬ 12 + j < 4 by omega, show ¬ 12 + j - 4 < 4 by omega,
    show ¬ 12 + j - 4 - 4 < 4 by omega, show 12 + j - 4 - 4 - 4 = j by omega]

@[simp] theorem fieldX_wordTXYN (t : BitVec 4) (x y : Reg) (n : BitVec 4) : fieldX (wordTXYN t x y n) = x := by
  have : (wordTXYN t x y n).extractLsb' 8 4 = BitVec.ofFin (w := 4) x := by
    apply BitVec.eq_of_getLsbD_eq; intro j hj
    simp [getLsbD_wordTXYN, hj, show ¬ 8 + j < 4 by omega, show ¬ 8 + j - 4 < 4 by omega,
      show 8 + j - 4 - 4 = j by omega]
  simp [fieldX, this]

@[simp] theorem fieldY_wordTXYN (t : BitVec 4) (x y : Reg) (n : BitVec 4) : fieldY (wordTXYN t x y n) = y := by
  have : (wordTXYN t x y n).extractLsb' 4 4 = BitVec.ofFin (w := 4) y := by
    apply BitVec.eq_of_getLsbD_eq; intro j hj
    simp [getLsbD_wordTXYN, hj]
  simp [fieldY, this]

@[simp] theorem fieldN_wordTXYN (t : BitVec 4) (x y : Reg) (n : BitVec 4) : fieldN (wordTXYN t x y n) = n := by
  apply BitVec.eq_of_getLsbD_eq; intro j hj
  simp [fieldN, getLsbD_wordTXYN, hj]

/-- Storing a word big-endian and fetching it gives it back (20_memory.md R54). -/
@[simp] theorem bigEndian_wordBytes (w : Word) : bigEndian (w.extractLsb' 8 8) (w.extractLsb' 0 8) = w := by
  apply BitVec.eq_of_getLsbD_eq; intro j hj
  by_cases h : j < 8
  · simp [getLsbD_bigEndian, h]
  · simp [getLsbD_bigEndian, h, show j - 8 < 8 by omega, show 8 + (j - 8) = j by omega]

/-! ### Masks (30_encoding.md R74) -/

theorem and_F000 (w : Word) : w &&& 0xF000 = wordTNNN (fieldT w) 0 := by
  apply BitVec.eq_of_getLsbD_eq; intro j hj
  rw [getLsbD_wordTNNN]
  interval_cases j <;> simp [fieldT]

theorem and_F00F (w : Word) : w &&& 0xF00F = wordTXYN (fieldT w) 0 0 (fieldN w) := by
  apply BitVec.eq_of_getLsbD_eq; intro j hj
  rw [getLsbD_wordTXYN]
  interval_cases j <;> simp [fieldT, fieldN]

theorem and_F0FF (w : Word) : w &&& 0xF0FF = wordTXNN (fieldT w) 0 (fieldNN w) := by
  apply BitVec.eq_of_getLsbD_eq; intro j hj
  rw [getLsbD_wordTXNN]
  interval_cases j <;> simp [fieldT, fieldNN]

/-- A row that fixes T alone is hit by the words with that T. -/
theorem hits_T (t : BitVec 4) (w : Word) : OpcodeRow.hits ⟨0xF000, wordTNNN t 0⟩ w = true ↔ fieldT w = t := by
  simp only [OpcodeRow.hits, beq_iff_eq, and_F000]
  exact ⟨fun h => by simpa using congrArg fieldT h, fun h => by rw [h]⟩

/-- A row that fixes T and N is hit by the words with that T and N. -/
theorem hits_TN (t n : BitVec 4) (w : Word) :
    OpcodeRow.hits ⟨0xF00F, wordTXYN t 0 0 n⟩ w = true ↔ fieldT w = t ∧ fieldN w = n := by
  simp only [OpcodeRow.hits, beq_iff_eq, and_F00F]
  exact ⟨fun h => ⟨by simpa using congrArg fieldT h, by simpa using congrArg fieldN h⟩, fun h => by rw [h.1, h.2]⟩

/-- A row that fixes T and NN is hit by the words with that T and NN. -/
theorem hits_TNN (t : BitVec 4) (nn : Byte) (w : Word) :
    OpcodeRow.hits ⟨0xF0FF, wordTXNN t 0 nn⟩ w = true ↔ fieldT w = t ∧ fieldNN w = nn := by
  simp only [OpcodeRow.hits, beq_iff_eq, and_F0FF]
  exact ⟨fun h => ⟨by simpa using congrArg fieldT h, by simpa using congrArg fieldNN h⟩, fun h => by rw [h.1, h.2]⟩

/-- A word is its T and NNN. -/
theorem word_eq_wordTNNN (w : Word) : w = wordTNNN (fieldT w) (fieldNNN w) := by
  apply BitVec.eq_of_getLsbD_eq; intro j hj
  rw [getLsbD_wordTNNN]
  by_cases h : j < 12
  · simp [fieldNNN, h]
  · simp [fieldT, h, show j - 12 < 4 by omega, show 12 + (j - 12) = j by omega]

/-- A word is its T, X and NN. -/
theorem word_eq_wordTXNN (w : Word) : w = wordTXNN (fieldT w) (fieldX w) (fieldNN w) := by
  apply BitVec.eq_of_getLsbD_eq; intro j hj
  rw [getLsbD_wordTXNN]
  have hx : BitVec.ofFin (w := 4) (fieldX w) = w.extractLsb' 8 4 := rfl
  rw [hx]
  interval_cases j <;> simp [fieldT, fieldNN]

/-- A word is its T, X, Y and N. -/
theorem word_eq_wordTXYN (w : Word) : w = wordTXYN (fieldT w) (fieldX w) (fieldY w) (fieldN w) := by
  apply BitVec.eq_of_getLsbD_eq; intro j hj
  rw [getLsbD_wordTXYN]
  have hx : BitVec.ofFin (w := 4) (fieldX w) = w.extractLsb' 8 4 := rfl
  have hy : BitVec.ofFin (w := 4) (fieldY w) = w.extractLsb' 4 4 := rfl
  rw [hx, hy]
  interval_cases j <;> simp [fieldT, fieldN]

/-- A row that fixes every bit is hit by one word. -/
theorem hits_word (v w : Word) : OpcodeRow.hits ⟨0xFFFF, v⟩ w = true ↔ w = v := by
  have h : w &&& 0xFFFF = w := by
    apply BitVec.eq_of_getLsbD_eq; intro j hj
    interval_cases j <;> simp
  simp only [OpcodeRow.hits, beq_iff_eq]
  rw [h]

/-! ### Decoding follows the opcode map -/

theorem ofNat_of_toNat {n : Nat} {a : BitVec n} {m : Nat} (h : a.toNat = m) : a = BitVec.ofNat n m := by
  rw [← h]; simp

theorem decodeZero_row_hits {w : Word} {k : Nat} (h : (decodeZero w).row = some k) (hT : fieldT w = 0) :
    ∃ r, opcodeMap[k]? = some r ∧ r.hits w = true := by
  have hw := word_eq_wordTNNN w
  unfold decodeZero at h
  split at h
  · rename_i hn
    obtain rfl : 0 = k := by simpa [Instr.row] using h
    exact ⟨_, rfl, (hits_word _ w).2 (by rw [hw, hT, hn]; decide)⟩
  · split at h
    · rename_i hn
      obtain rfl : 1 = k := by simpa [Instr.row] using h
      exact ⟨_, rfl, (hits_word _ w).2 (by rw [hw, hT, hn]; decide)⟩
    · simp [Instr.row] at h

theorem decodeAlu_row_hits {w : Word} {k : Nat} (h : (decodeAlu w).row = some k) (hT : fieldT w = 8) :
    ∃ r, opcodeMap[k]? = some r ∧ r.hits w = true := by
  unfold decodeAlu at h
  split at h <;> rename_i hn <;> simp only [Instr.row, Option.some.injEq, reduceCtorEq] at h <;> subst h
  all_goals
    have hit := (hits_TN 8 _ w).2 ⟨hT, ofNat_of_toNat hn⟩
    exact ⟨_, rfl, hit⟩

theorem decodeKeys_row_hits {w : Word} {k : Nat} (h : (decodeKeys w).row = some k) (hT : fieldT w = 14) :
    ∃ r, opcodeMap[k]? = some r ∧ r.hits w = true := by
  unfold decodeKeys at h
  split at h
  · rename_i hn
    obtain rfl : 23 = k := by simpa [Instr.row] using h
    exact ⟨_, rfl, (hits_TNN 14 0x9E w).2 ⟨hT, hn⟩⟩
  · split at h
    · rename_i hn
      obtain rfl : 24 = k := by simpa [Instr.row] using h
      exact ⟨_, rfl, (hits_TNN 14 0xA1 w).2 ⟨hT, hn⟩⟩
    · simp [Instr.row] at h

theorem decodeMisc_row_hits {w : Word} {k : Nat} (h : (decodeMisc w).row = some k) (hT : fieldT w = 15) :
    ∃ r, opcodeMap[k]? = some r ∧ r.hits w = true := by
  unfold decodeMisc at h
  split at h <;> rename_i hn <;> simp only [Instr.row, Option.some.injEq, reduceCtorEq] at h <;> subst h
  all_goals
    have hit := (hits_TNN 15 _ w).2 ⟨hT, ofNat_of_toNat hn⟩
    exact ⟨_, rfl, hit⟩

/-- The top nibble that is none of 0..14. -/
theorem eq_fifteen {t : BitVec 4} (_ : ¬ t.toNat = 0) (_ : ¬ t.toNat = 1) (_ : ¬ t.toNat = 2) (_ : ¬ t.toNat = 3)
    (_ : ¬ t.toNat = 4) (_ : ¬ t.toNat = 5) (_ : ¬ t.toNat = 6) (_ : ¬ t.toNat = 7) (_ : ¬ t.toNat = 8)
    (_ : ¬ t.toNat = 9) (_ : ¬ t.toNat = 10) (_ : ¬ t.toNat = 11) (_ : ¬ t.toNat = 12) (_ : ¬ t.toNat = 13)
    (_ : ¬ t.toNat = 14) : t = 15 := by
  have := t.isLt
  exact BitVec.eq_of_toNat_eq (show t.toNat = 15 by omega)

/-- The top nibble decides the first level (R73): a decoded word hits the row of its instruction. -/
theorem decodeWord_row_hits {w : Word} {k : Nat} (h : (decodeWord w).row = some k) :
    ∃ r, opcodeMap[k]? = some r ∧ r.hits w = true := by
  unfold decodeWord at h
  split at h
  case h_1 hT => exact decodeZero_row_hits h (ofNat_of_toNat hT)
  case h_9 hT => exact decodeAlu_row_hits h (ofNat_of_toNat hT)
  case h_15 hT => exact decodeKeys_row_hits h (ofNat_of_toNat hT)
  case h_16 =>
    refine decodeMisc_row_hits h (eq_fifteen ?_ ?_ ?_ ?_ ?_ ?_ ?_ ?_ ?_ ?_ ?_ ?_ ?_ ?_ ?_) <;> assumption
  all_goals
    rename_i hT
    simp only [Instr.row, Option.some.injEq] at h
    subst h
    have hit := (hits_T _ w).2 (ofNat_of_toNat hT)
    exact ⟨_, rfl, hit⟩

theorem decodeZero_of_row_none {w : Word} : (decodeZero w).row = none → decodeZero w = .unmapped w := by
  unfold decodeZero; (repeat' split) <;> simp [Instr.row]

theorem decodeAlu_of_row_none {w : Word} : (decodeAlu w).row = none → decodeAlu w = .unmapped w := by
  unfold decodeAlu; split <;> simp [Instr.row]

theorem decodeKeys_of_row_none {w : Word} : (decodeKeys w).row = none → decodeKeys w = .unmapped w := by
  unfold decodeKeys; (repeat' split) <;> simp [Instr.row]

theorem decodeMisc_of_row_none {w : Word} : (decodeMisc w).row = none → decodeMisc w = .unmapped w := by
  unfold decodeMisc; split <;> simp [Instr.row]

/-- A word with no row decodes to itself, unmapped. -/
theorem decodeWord_of_row_none {w : Word} : (decodeWord w).row = none → decodeWord w = .unmapped w := by
  unfold decodeWord
  split
  case h_1 => exact decodeZero_of_row_none
  case h_9 => exact decodeAlu_of_row_none
  case h_15 => exact decodeKeys_of_row_none
  case h_16 => exact decodeMisc_of_row_none
  all_goals simp [Instr.row]

/-- An unmapped word decodes to `unmapped`. -/
theorem decodeWord_of_unmapped {w : Word} (h : unmappedWord w = true) : decodeWord w = .unmapped w := by
  apply decodeWord_of_row_none
  by_contra hr
  obtain ⟨k, hk⟩ := Option.ne_none_iff_exists'.1 hr
  obtain ⟨r, hr, hits⟩ := decodeWord_row_hits hk
  have := List.all_eq_true.1 h r (List.mem_of_getElem? hr)
  simp [hits] at this
end Sys2Proof
end

