-- ==== Sys2Proof/Laws/Memory.lean ====
section
/-! SUPPORT. Memory: a read gives the last byte written, and every operation keeps the canonical form. -/

namespace Sys2Proof.Machine

namespace Memory

variable {font : Config.Font}

@[simp] theorem read_nil (a : Nat) : read font [] a = blank font a := rfl

theorem read_cons (k : Nat) (b : Byte) (m : Memory) (a : Nat) :
    read font ((k, b) :: m) a = if k = a then b else read font m a := rfl

/-- An address below every listed one reads as unlisted. -/
theorem read_of_lt {m : Memory} {a : Nat} (h : ∀ p ∈ m, a < p.1) : read font m a = blank font a := by
  induction m with
  | nil => rfl
  | cons p m ih =>
    have hp : p.1 ≠ a := by have := h p (by simp); omega
    rw [show p = (p.1, p.2) from rfl, read_cons, if_neg hp, ih fun q hq => h q (by simp [hq])]

theorem read_cell_append (a : Nat) (b : Byte) (m : Memory) (c : Nat) :
    read font (cell font a b ++ m) c = if b = blank font a then read font m c else if a = c then b else read font m c := by
  unfold cell; split <;> simp [read_cons]

theorem cell_append_wf {a : Nat} {b : Byte} {m : Memory} (ha : a < Config.memSize) (hm : wf font m)
    (hlt : ∀ p ∈ m, a < p.1) : wf font (cell font a b ++ m) := by
  unfold cell
  split
  · simpa using hm
  · rename_i hb
    exact ⟨List.Pairwise.cons (fun p hp => hlt p hp) hm.1, by
      intro p hp
      rcases List.mem_cons.1 hp with rfl | hp
      · exact ⟨ha, hb⟩
      · exact hm.2 p hp⟩

theorem wf_tail {p : Host.Cell} {m : Memory} (h : wf font (p :: m)) : wf font m :=
  ⟨(List.pairwise_cons.1 h.1).2, fun q hq => h.2 q (List.mem_cons_of_mem _ hq)⟩

theorem wf_head {p : Host.Cell} {m : Memory} (h : wf font (p :: m)) : ∀ q ∈ m, p.1 < q.1 :=
  (List.pairwise_cons.1 h.1).1

/-- Writing an address leaves every other address alone (20_memory.md R58). -/
theorem read_write_other (m : Memory) {a c : Nat} (b : Byte) (h : c ≠ a) :
    read font (write font m a b) c = read font m c := by
  induction m with
  | nil =>
    have := read_cell_append (font := font) a b [] c
    simp only [List.append_nil] at this
    rw [write, this]; simp [Ne.symm h]
  | cons p m ih =>
    obtain ⟨k, d⟩ := p
    simp only [write]
    split
    · rw [read_cell_append]; simp [Ne.symm h]
    · split
      · subst_vars; rw [read_cell_append]; simp [Ne.symm h, read_cons]
      · simp only [read_cons, ih]

/-- Reading an address gives the byte last written there (20_memory.md R58). -/
theorem read_write_same {m : Memory} (hm : wf font m) (a : Nat) (b : Byte) : read font (write font m a b) a = b := by
  induction m with
  | nil =>
    have := read_cell_append (font := font) a b [] a
    simp only [List.append_nil] at this
    rw [write, this]; split <;> simp_all
  | cons p m ih =>
    obtain ⟨k, d⟩ := p
    have hlt := wf_head hm
    simp only [write]
    split
    · rename_i hak
      rw [read_cell_append]
      split
      · rw [read_of_lt]
        · simp_all
        · intro q hq
          rcases List.mem_cons.1 hq with rfl | hq
          · exact hak
          · exact lt_trans hak (hlt q hq)
      · simp
    · split
      · subst_vars
        rw [read_cell_append]
        split
        · rw [read_of_lt hlt]; simp_all
        · simp
      · rename_i h1 h2
        rw [read_cons, if_neg (Ne.symm h2), ih (wf_tail hm)]

theorem mem_write {m : Memory} {a : Nat} {b : Byte} {p : Host.Cell} (h : p ∈ write font m a b) : p.1 = a ∨ p ∈ m := by
  induction m with
  | nil => simp only [write, cell] at h; split at h <;> simp_all
  | cons q m ih =>
    obtain ⟨k, d⟩ := q
    simp only [write, cell] at h
    split at h
    · split at h <;> simp_all
      rcases h with rfl | h <;> simp_all
    · split at h
      · split at h <;> simp_all
        rcases h with rfl | h <;> simp_all
      · rcases List.mem_cons.1 h with rfl | h
        · simp
        · rcases ih h with h | h <;> simp [h]

/-- A write keeps the canonical form. -/
theorem write_wf {m : Memory} (hm : wf font m) {a : Nat} (ha : a < Config.memSize) (b : Byte) :
    wf font (write font m a b) := by
  induction m with
  | nil => simpa [write] using cell_append_wf (b := b) ha hm (by simp)
  | cons p m ih =>
    obtain ⟨k, d⟩ := p
    have hlt := wf_head hm
    simp only [write]
    split
    · rename_i hak
      refine cell_append_wf ha hm fun q hq => ?_
      rcases List.mem_cons.1 hq with rfl | hq
      · exact hak
      · exact lt_trans hak (hlt q hq)
    · split
      · subst_vars
        exact cell_append_wf ha (wf_tail hm) hlt
      · rename_i h1 h2
        have hr := ih (wf_tail hm)
        refine ⟨List.Pairwise.cons (fun q hq => ?_) hr.1, fun q hq => ?_⟩
        · rcases mem_write hq with h | h
          · simp only [h]; omega
          · exact hlt q h
        · rcases List.mem_cons.1 hq with rfl | hq
          · exact hm.2 _ (by simp)
          · exact hr.2 q hq

/-- Writing a run of bytes keeps the canonical form. -/
theorem writeBytes_wf (bs : List Byte) : ∀ {m : Memory} (_ : wf font m) {a : Nat} (_ : a + bs.length ≤ Config.memSize),
    wf font (writeBytes font m a bs) := by
  induction bs with
  | nil => intro m hm a _; exact hm
  | cons b bs ih =>
    intro m hm a ha
    simp only [List.length_cons] at ha
    exact ih (write_wf hm (by omega) b) (by omega)

/-- An address outside the run reads as before. -/
theorem read_writeBytes_other (bs : List Byte) : ∀ (m : Memory) {a c : Nat} (_ : c < a ∨ a + bs.length ≤ c),
    read font (writeBytes font m a bs) c = read font m c := by
  induction bs with
  | nil => intro m a c _; rfl
  | cons b bs ih =>
    intro m a c h
    simp only [List.length_cons] at h
    rw [writeBytes, ih _ (by omega), read_write_other _ _ (by omega)]

/-- An address inside the run reads as the byte written there. -/
theorem read_writeBytes (bs : List Byte) : ∀ {m : Memory} (_ : wf font m) {a : Nat} (_ : a + bs.length ≤ Config.memSize)
    {k : Nat} (h : k < bs.length), read font (writeBytes font m a bs) (a + k) = bs[k] := by
  induction bs with
  | nil => intro m _ a _ k h; simp at h
  | cons b bs ih =>
    intro m hm a ha k h
    simp only [List.length_cons] at ha h
    have hw : wf font (write font m a b) := write_wf hm (by omega) b
    cases k with
    | zero =>
      rw [writeBytes, read_writeBytes_other _ _ (by omega), Nat.add_zero, read_write_same hm]; simp
    | succ k =>
      have := ih hw (a := a + 1) (by omega) (k := k) (by omega)
      rw [writeBytes, show a + (k + 1) = a + 1 + k by omega, this]; simp

@[simp] theorem length_readBytes (m : Memory) (a n : Nat) : (readBytes font m a n).length = n := by simp [readBytes]

@[simp] theorem getElem_readBytes (m : Memory) (a n k : Nat) (h : k < (readBytes font m a n).length) :
    (readBytes font m a n)[k] = m.read font (a + k) := by simp [readBytes]

end Memory

/-! ### The state's memory -/

/-- What memory reads as depends on memory and on the parameter FONT alone. -/
theorem State.read_congr {s t : State} (hm : t.mem = s.mem) (hp : t.params = s.params) (a : Nat) :
    t.read a = s.read a := by
  rw [State.read, State.read, hm, hp]

@[simp] theorem State.length_readBytes (s : State) (a n : Nat) : (s.readBytes a n).length = n :=
  Memory.length_readBytes ..

@[simp] theorem State.getElem_readBytes (s : State) (a n k : Nat) (h : k < (s.readBytes a n).length) :
    (s.readBytes a n)[k] = s.read (a + k) := Memory.getElem_readBytes ..

/-- An address outside the run reads as before. -/
theorem State.read_writeBytes_other (s : State) {a c : Nat} (bs : List Byte) (h : c < a ∨ a + bs.length ≤ c) :
    (s.writeBytes a bs).read c = s.read c := Memory.read_writeBytes_other bs s.mem h

/-- An address inside the run reads as the byte written there. -/
theorem State.read_writeBytes {s : State} (hm : s.memWf) {a : Nat} (bs : List Byte)
    (ha : a + bs.length ≤ Config.memSize) {k : Nat} (h : k < bs.length) :
    (s.writeBytes a bs).read (a + k) = bs[k] := Memory.read_writeBytes bs hm ha h

/-- Writing a run of bytes keeps the canonical form. -/
theorem State.writeBytes_memWf {s : State} (hm : s.memWf) {a : Nat} (bs : List Byte)
    (ha : a + bs.length ≤ Config.memSize) : (s.writeBytes a bs).memWf := Memory.writeBytes_wf bs hm ha

end Sys2Proof.Machine
end

