-- ==== Sys2Proof/Laws/Screen.lean ====
section
/-! SUPPORT. The display: a pixel reads as last written, and what drawing a sprite does to each pixel. -/

namespace Sys2Proof.Machine

namespace Display

@[simp] theorem pixel_clear (x : Fin 64) (y : Fin 32) : pixel clear x y = false := by simp [pixel, clear]

/-- Writing one pixel leaves every other pixel alone. -/
theorem pixel_setPixel (d : Display) (x x' : Fin 64) (y y' : Fin 32) (b : Bool) :
    pixel (setPixel d x y b) x' y' = if x' = x ∧ y' = y then b else pixel d x' y' := by
  unfold pixel setPixel
  by_cases hy : y' = y
  · subst hy
    have hx' := x'.isLt
    have hx := x.isLt
    by_cases hx : x' = x
    · subst hx; cases b <;> simp
    · have hne : x'.val ≠ x.val := fun h => hx (Fin.ext h)
      have h64 : ¬ (64 : Nat) ≤ x'.val := by omega
      cases b <;> simp [hx] <;> omega
  · have hne : y.val ≠ y'.val := fun h => hy (Fin.ext h.symm)
    simp [hy, hne]

/-- Two displays with the same pixels are equal. -/
theorem ext_pixel {d e : Display} (h : ∀ x y, pixel d x y = pixel e x y) : d = e := by
  apply Vector.ext
  intro k hk
  apply BitVec.eq_of_getLsbD_eq
  intro j hj
  exact h ⟨j, hj⟩ ⟨k, hk⟩

end Display

/-! ### Drawing a sprite (44_display.md R191) -/

/-- The place of a composited pixel. -/
def pixelPlace (p : Fin 64 × Fin 32 × Bool) : Fin 64 × Fin 32 := (p.1, p.2.1)

theorem composite_pixel (acc : Display × Bool) (p : Fin 64 × Fin 32 × Bool) (x : Fin 64) (y : Fin 32) :
    (composite acc p).1.pixel x y =
      if x = p.1 ∧ y = p.2.1 then acc.1.pixel x y ^^ p.2.2 else acc.1.pixel x y := by
  simp only [composite, Display.pixel_setPixel]
  split
  · rename_i h; rw [h.1, h.2]
  · rfl

theorem composite_collision (acc : Display × Bool) (p : Fin 64 × Fin 32 × Bool) :
    (composite acc p).2 = (acc.2 || (acc.1.pixel p.1 p.2.1 && p.2.2)) := by
  simp only [composite]
  cases acc.1.pixel p.1 p.2.1 <;> cases p.2.2 <;> simp

/-- A pixel that the sprite does not cover keeps its value. -/
theorem fold_pixel_other (ps : List (Fin 64 × Fin 32 × Bool)) : ∀ (acc : Display × Bool) {x : Fin 64} {y : Fin 32}
    (_ : ∀ p ∈ ps, pixelPlace p ≠ (x, y)), (ps.foldl composite acc).1.pixel x y = acc.1.pixel x y := by
  induction ps with
  | nil => intro acc x y _; rfl
  | cons p ps ih =>
    intro acc x y h
    rw [List.foldl_cons, ih _ fun q hq => h q (List.mem_cons_of_mem _ hq), composite_pixel, if_neg]
    rintro ⟨rfl, rfl⟩
    exact h p (by simp) rfl

/-- A covered pixel is XORed with its sprite bit, once (44_display.md R192, R196). -/
theorem fold_pixel_covered (ps : List (Fin 64 × Fin 32 × Bool)) : ∀ (acc : Display × Bool)
    (_ : ps.Pairwise fun p q => pixelPlace p ≠ pixelPlace q) {p : Fin 64 × Fin 32 × Bool} (_ : p ∈ ps),
    (ps.foldl composite acc).1.pixel p.1 p.2.1 = (acc.1.pixel p.1 p.2.1 ^^ p.2.2) := by
  induction ps with
  | nil => intro acc _ p h; simp at h
  | cons q ps ih =>
    intro acc hd p hp
    obtain ⟨hq, hps⟩ := List.pairwise_cons.1 hd
    rw [List.foldl_cons]
    rcases List.mem_cons.1 hp with rfl | hp
    · rw [fold_pixel_other ps _ fun r hr h => hq r hr h.symm, composite_pixel, if_pos ⟨rfl, rfl⟩]
    · rw [ih _ hps hp, composite_pixel, if_neg]
      rintro ⟨h1, h2⟩
      exact hq p hp (by simp [pixelPlace, h1, h2])

/-- A collision is recorded exactly where a lit pixel meets a set sprite bit (44_display.md R194). -/
theorem fold_collision (ps : List (Fin 64 × Fin 32 × Bool)) : ∀ (acc : Display × Bool)
    (_ : ps.Pairwise fun p q => pixelPlace p ≠ pixelPlace q),
    (ps.foldl composite acc).2 = true ↔ acc.2 = true ∨ ∃ p ∈ ps, acc.1.pixel p.1 p.2.1 = true ∧ p.2.2 = true := by
  induction ps with
  | nil => intro acc _; simp
  | cons q ps ih =>
    intro acc hd
    obtain ⟨hq, hps⟩ := List.pairwise_cons.1 hd
    have keep : ∀ p ∈ ps, (composite acc q).1.pixel p.1 p.2.1 = acc.1.pixel p.1 p.2.1 := by
      intro p hp
      rw [composite_pixel, if_neg]
      rintro ⟨h1, h2⟩
      exact hq p hp (by simp [pixelPlace, h1, h2])
    rw [List.foldl_cons, ih _ hps, composite_collision]
    simp only [Bool.or_eq_true, Bool.and_eq_true, List.mem_cons, exists_eq_or_imp, or_assoc]
    refine or_congr_right (or_congr_right ⟨?_, ?_⟩)
    · rintro ⟨p, hp, h1, h2⟩; exact ⟨p, hp, keep p hp ▸ h1, h2⟩
    · rintro ⟨p, hp, h1, h2⟩; exact ⟨p, hp, (keep p hp).symm ▸ h1, h2⟩

theorem mem_rowPixels {x0 y : Nat} {row : Byte} {p : Fin 64 × Fin 32 × Bool} :
    p ∈ rowPixels x0 y row ↔ ∃ b < 8, p = (Fin.ofNat 64 (x0 + b), Fin.ofNat 32 y, row.getLsbD (7 - b)) := by
  simp [rowPixels, eq_comm]

/-- The pixels of a sprite: row `r` and column `b` at `((x0 + b) mod 64, (y0 + r) mod 32)` (44_display.md R192). -/
theorem mem_spritePixels {x0 : Nat} (rows : List Byte) : ∀ {y0 : Nat} {p : Fin 64 × Fin 32 × Bool},
    p ∈ spritePixels x0 y0 rows ↔ ∃ r, ∃ h : r < rows.length, ∃ b < 8,
      p = (Fin.ofNat 64 (x0 + b), Fin.ofNat 32 (y0 + r), rows[r].getLsbD (7 - b)) := by
  induction rows with
  | nil => intro y0 p; simp [spritePixels]
  | cons row rows ih =>
    intro y0 p
    rw [spritePixels, List.mem_append, mem_rowPixels, ih]
    constructor
    · rintro (⟨b, hb, rfl⟩ | ⟨r, hr, b, hb, rfl⟩)
      · exact ⟨0, by simp, b, hb, by simp⟩
      · exact ⟨r + 1, by simpa using hr, b, hb, by simp [Nat.add_comm, Nat.add_left_comm]⟩
    · rintro ⟨r, hr, b, hb, rfl⟩
      cases r with
      | zero => exact .inl ⟨b, hb, by simp⟩
      | succ r => exact .inr ⟨r, by simpa using hr, b, hb, by simp [Nat.add_comm, Nat.add_left_comm]⟩

/-- "No pixel is composited twice by one DXYN" (44_display.md R196). -/
theorem spritePixels_distinct {x0 : Nat} (rows : List Byte) : ∀ {y0 : Nat} (_ : rows.length ≤ 32),
    (spritePixels x0 y0 rows).Pairwise fun p q => pixelPlace p ≠ pixelPlace q := by
  induction rows with
  | nil => intro y0 _; simp [spritePixels]
  | cons row rows ih =>
    intro y0 h
    simp only [List.length_cons] at h
    rw [spritePixels, List.pairwise_append]
    refine ⟨?_, ih (by omega), ?_⟩
    · rw [rowPixels, List.pairwise_map]
      refine (List.nodup_range (n := 8)).imp_of_mem fun {a b} ha hb hab => ?_
      simp only [List.mem_range] at ha hb
      simp only [pixelPlace, ne_eq, Prod.mk.injEq, and_true, Fin.ext_iff, Fin.ofNat]
      omega
    · intro p hp q hq
      obtain ⟨b, hb, rfl⟩ := mem_rowPixels.1 hp
      obtain ⟨r, hr, c, hc, rfl⟩ := (mem_spritePixels rows).1 hq
      simp only [pixelPlace, ne_eq, Prod.mk.injEq, Fin.ext_iff, Fin.ofNat, not_and]
      intro _
      omega

/-! ### The sprite of DXYN -/

/-- The place of column `b` of row `r` of the sprite (44_display.md R192). -/
def spritePlace (x y : Reg) (s : State) (r b : Nat) : Fin 64 × Fin 32 :=
  (Fin.ofNat 64 ((s.reg x).toNat % 64 + b), Fin.ofNat 32 ((s.reg y).toNat % 32 + r))

/-- The bit of column `b` of row `r` of the sprite (44_display.md R193). -/
def spriteBit (s : State) (r b : Nat) : Bool := (s.read (s.i.toNat + r)).getLsbD (7 - b)

theorem mem_spriteOf {x y : Reg} {n : BitVec 4} {s : State} {p : Fin 64 × Fin 32 × Bool} :
    p ∈ spriteOf x y n s ↔ ∃ r, r < n.toNat ∧ ∃ b < 8,
      p = ((spritePlace x y s r b).1, (spritePlace x y s r b).2, spriteBit s r b) := by
  rw [spriteOf, mem_spritePixels]
  constructor
  · rintro ⟨r, hr, b, hb, rfl⟩
    exact ⟨r, by simpa using hr, b, hb, by simp [spritePlace, spriteBit]⟩
  · rintro ⟨r, hr, b, hb, rfl⟩
    exact ⟨r, by simpa using hr, b, hb, by simp [spritePlace, spriteBit]⟩

theorem spriteOf_distinct (x y : Reg) (n : BitVec 4) (s : State) :
    (spriteOf x y n s).Pairwise fun p q => pixelPlace p ≠ pixelPlace q := by
  have := n.isLt
  exact spritePixels_distinct _ (by simp; omega)

/-- A pixel the sprite covers is XORed with its bit. -/
theorem drawSprite_covered {x y : Reg} {n : BitVec 4} {s : State} (d : Display) {r b : Nat} (hr : r < n.toNat)
    (hb : b < 8) :
    (drawSprite d (spriteOf x y n s)).1.pixel (spritePlace x y s r b).1 (spritePlace x y s r b).2 =
      (d.pixel (spritePlace x y s r b).1 (spritePlace x y s r b).2 ^^ spriteBit s r b) := by
  have hp : ((spritePlace x y s r b).1, (spritePlace x y s r b).2, spriteBit s r b) ∈ spriteOf x y n s :=
    mem_spriteOf.2 ⟨r, hr, b, hb, rfl⟩
  rw [drawSprite, fold_pixel_covered _ (d, false) (spriteOf_distinct x y n s) hp]

/-- A pixel the sprite does not cover keeps its value. -/
theorem drawSprite_other {x y : Reg} {n : BitVec 4} {s : State} (d : Display) {px : Fin 64} {py : Fin 32}
    (h : ∀ r b, r < n.toNat → b < 8 → spritePlace x y s r b ≠ (px, py)) :
    (drawSprite d (spriteOf x y n s)).1.pixel px py = d.pixel px py := by
  rw [drawSprite, fold_pixel_other _ (d, false)]
  intro p hp
  obtain ⟨r, hr, b, hb, rfl⟩ := mem_spriteOf.1 hp
  exact h r b hr hb

/-- A collision is a lit pixel under a set sprite bit. -/
theorem drawSprite_collision {x y : Reg} {n : BitVec 4} {s : State} (d : Display) :
    (drawSprite d (spriteOf x y n s)).2 = true ↔ ∃ r, r < n.toNat ∧ ∃ b < 8,
      d.pixel (spritePlace x y s r b).1 (spritePlace x y s r b).2 = true ∧ spriteBit s r b = true := by
  rw [drawSprite, fold_collision _ (d, false) (spriteOf_distinct x y n s)]
  simp only [Bool.false_eq_true, false_or]
  constructor
  · rintro ⟨p, hp, h1, h2⟩
    obtain ⟨r, hr, b, hb, rfl⟩ := mem_spriteOf.1 hp
    exact ⟨r, hr, b, hb, h1, h2⟩
  · rintro ⟨r, hr, b, hb, h1, h2⟩
    exact ⟨_, mem_spriteOf.2 ⟨r, hr, b, hb, rfl⟩, h1, h2⟩

end Sys2Proof.Machine
end

