-- ==== Sys2Proof/Laws/State.lean ====
section
/-! SUPPORT. One lemma per field per update of State, and how a register reads after a write. -/

namespace Sys2Proof.Machine

/-! ### One lemma per field per update -/

/-! #### `State.setReg` -/

@[simp] theorem State.setReg_v (s : State) (r : Reg) (b : Byte) : (s.setReg r b).v = s.v.set r.val b := rfl
@[simp] theorem State.setReg_i (s : State) (r : Reg) (b : Byte) : (s.setReg r b).i = s.i := rfl
@[simp] theorem State.setReg_pc (s : State) (r : Reg) (b : Byte) : (s.setReg r b).pc = s.pc := rfl
@[simp] theorem State.setReg_sp (s : State) (r : Reg) (b : Byte) : (s.setReg r b).sp = s.sp := rfl
@[simp] theorem State.setReg_stack (s : State) (r : Reg) (b : Byte) : (s.setReg r b).stack = s.stack := rfl
@[simp] theorem State.setReg_dt (s : State) (r : Reg) (b : Byte) : (s.setReg r b).dt = s.dt := rfl
@[simp] theorem State.setReg_st (s : State) (r : Reg) (b : Byte) : (s.setReg r b).st = s.st := rfl
@[simp] theorem State.setReg_mem (s : State) (r : Reg) (b : Byte) : (s.setReg r b).mem = s.mem := rfl
@[simp] theorem State.setReg_display (s : State) (r : Reg) (b : Byte) : (s.setReg r b).display = s.display := rfl
@[simp] theorem State.setReg_keys (s : State) (r : Reg) (b : Byte) : (s.setReg r b).keys = s.keys := rfl
@[simp] theorem State.setReg_runState (s : State) (r : Reg) (b : Byte) : (s.setReg r b).runState = s.runState := rfl
@[simp] theorem State.setReg_faultCause (s : State) (r : Reg) (b : Byte) : (s.setReg r b).faultCause = s.faultCause := rfl
@[simp] theorem State.setReg_faultPc (s : State) (r : Reg) (b : Byte) : (s.setReg r b).faultPc = s.faultPc := rfl
@[simp] theorem State.setReg_faultAddr (s : State) (r : Reg) (b : Byte) : (s.setReg r b).faultAddr = s.faultAddr := rfl
@[simp] theorem State.setReg_unmappedCount (s : State) (r : Reg) (b : Byte) : (s.setReg r b).unmappedCount = s.unmappedCount := rfl
@[simp] theorem State.setReg_lastUnmapped (s : State) (r : Reg) (b : Byte) : (s.setReg r b).lastUnmapped = s.lastUnmapped := rfl
@[simp] theorem State.setReg_keyWait (s : State) (r : Reg) (b : Byte) : (s.setReg r b).keyWait = s.keyWait := rfl
@[simp] theorem State.setReg_loadStatus (s : State) (r : Reg) (b : Byte) : (s.setReg r b).loadStatus = s.loadStatus := rfl
@[simp] theorem State.setReg_params (s : State) (r : Reg) (b : Byte) : (s.setReg r b).params = s.params := rfl
@[simp] theorem State.setReg_randIn (s : State) (r : Reg) (b : Byte) : (s.setReg r b).randIn = s.randIn := rfl
@[simp] theorem State.setReg_draws (s : State) (r : Reg) (b : Byte) : (s.setReg r b).draws = s.draws := rfl
@[simp] theorem State.setReg_schedule (s : State) (r : Reg) (b : Byte) : (s.setReg r b).schedule = s.schedule := rfl
@[simp] theorem State.setReg_lastResult (s : State) (r : Reg) (b : Byte) : (s.setReg r b).lastResult = s.lastResult := rfl
@[simp] theorem State.setReg_read (s : State) (r : Reg) (b : Byte) (k : Nat) : (s.setReg r b).read k = s.read k := rfl

/-! #### `State.setPc` -/

@[simp] theorem State.setPc_v (s : State) (w : Word) : (s.setPc w).v = s.v := rfl
@[simp] theorem State.setPc_i (s : State) (w : Word) : (s.setPc w).i = s.i := rfl
@[simp] theorem State.setPc_pc (s : State) (w : Word) : (s.setPc w).pc = w := rfl
@[simp] theorem State.setPc_sp (s : State) (w : Word) : (s.setPc w).sp = s.sp := rfl
@[simp] theorem State.setPc_stack (s : State) (w : Word) : (s.setPc w).stack = s.stack := rfl
@[simp] theorem State.setPc_dt (s : State) (w : Word) : (s.setPc w).dt = s.dt := rfl
@[simp] theorem State.setPc_st (s : State) (w : Word) : (s.setPc w).st = s.st := rfl
@[simp] theorem State.setPc_mem (s : State) (w : Word) : (s.setPc w).mem = s.mem := rfl
@[simp] theorem State.setPc_display (s : State) (w : Word) : (s.setPc w).display = s.display := rfl
@[simp] theorem State.setPc_keys (s : State) (w : Word) : (s.setPc w).keys = s.keys := rfl
@[simp] theorem State.setPc_runState (s : State) (w : Word) : (s.setPc w).runState = s.runState := rfl
@[simp] theorem State.setPc_faultCause (s : State) (w : Word) : (s.setPc w).faultCause = s.faultCause := rfl
@[simp] theorem State.setPc_faultPc (s : State) (w : Word) : (s.setPc w).faultPc = s.faultPc := rfl
@[simp] theorem State.setPc_faultAddr (s : State) (w : Word) : (s.setPc w).faultAddr = s.faultAddr := rfl
@[simp] theorem State.setPc_unmappedCount (s : State) (w : Word) : (s.setPc w).unmappedCount = s.unmappedCount := rfl
@[simp] theorem State.setPc_lastUnmapped (s : State) (w : Word) : (s.setPc w).lastUnmapped = s.lastUnmapped := rfl
@[simp] theorem State.setPc_keyWait (s : State) (w : Word) : (s.setPc w).keyWait = s.keyWait := rfl
@[simp] theorem State.setPc_loadStatus (s : State) (w : Word) : (s.setPc w).loadStatus = s.loadStatus := rfl
@[simp] theorem State.setPc_params (s : State) (w : Word) : (s.setPc w).params = s.params := rfl
@[simp] theorem State.setPc_randIn (s : State) (w : Word) : (s.setPc w).randIn = s.randIn := rfl
@[simp] theorem State.setPc_draws (s : State) (w : Word) : (s.setPc w).draws = s.draws := rfl
@[simp] theorem State.setPc_schedule (s : State) (w : Word) : (s.setPc w).schedule = s.schedule := rfl
@[simp] theorem State.setPc_lastResult (s : State) (w : Word) : (s.setPc w).lastResult = s.lastResult := rfl
@[simp] theorem State.setPc_read (s : State) (w : Word) (k : Nat) : (s.setPc w).read k = s.read k := rfl
@[simp] theorem State.setPc_reg (s : State) (w : Word) (q : Reg) : (s.setPc w).reg q = s.reg q := rfl

/-! #### `State.setI` -/

@[simp] theorem State.setI_v (s : State) (w : Word) : (s.setI w).v = s.v := rfl
@[simp] theorem State.setI_i (s : State) (w : Word) : (s.setI w).i = w := rfl
@[simp] theorem State.setI_pc (s : State) (w : Word) : (s.setI w).pc = s.pc := rfl
@[simp] theorem State.setI_sp (s : State) (w : Word) : (s.setI w).sp = s.sp := rfl
@[simp] theorem State.setI_stack (s : State) (w : Word) : (s.setI w).stack = s.stack := rfl
@[simp] theorem State.setI_dt (s : State) (w : Word) : (s.setI w).dt = s.dt := rfl
@[simp] theorem State.setI_st (s : State) (w : Word) : (s.setI w).st = s.st := rfl
@[simp] theorem State.setI_mem (s : State) (w : Word) : (s.setI w).mem = s.mem := rfl
@[simp] theorem State.setI_display (s : State) (w : Word) : (s.setI w).display = s.display := rfl
@[simp] theorem State.setI_keys (s : State) (w : Word) : (s.setI w).keys = s.keys := rfl
@[simp] theorem State.setI_runState (s : State) (w : Word) : (s.setI w).runState = s.runState := rfl
@[simp] theorem State.setI_faultCause (s : State) (w : Word) : (s.setI w).faultCause = s.faultCause := rfl
@[simp] theorem State.setI_faultPc (s : State) (w : Word) : (s.setI w).faultPc = s.faultPc := rfl
@[simp] theorem State.setI_faultAddr (s : State) (w : Word) : (s.setI w).faultAddr = s.faultAddr := rfl
@[simp] theorem State.setI_unmappedCount (s : State) (w : Word) : (s.setI w).unmappedCount = s.unmappedCount := rfl
@[simp] theorem State.setI_lastUnmapped (s : State) (w : Word) : (s.setI w).lastUnmapped = s.lastUnmapped := rfl
@[simp] theorem State.setI_keyWait (s : State) (w : Word) : (s.setI w).keyWait = s.keyWait := rfl
@[simp] theorem State.setI_loadStatus (s : State) (w : Word) : (s.setI w).loadStatus = s.loadStatus := rfl
@[simp] theorem State.setI_params (s : State) (w : Word) : (s.setI w).params = s.params := rfl
@[simp] theorem State.setI_randIn (s : State) (w : Word) : (s.setI w).randIn = s.randIn := rfl
@[simp] theorem State.setI_draws (s : State) (w : Word) : (s.setI w).draws = s.draws := rfl
@[simp] theorem State.setI_schedule (s : State) (w : Word) : (s.setI w).schedule = s.schedule := rfl
@[simp] theorem State.setI_lastResult (s : State) (w : Word) : (s.setI w).lastResult = s.lastResult := rfl
@[simp] theorem State.setI_read (s : State) (w : Word) (k : Nat) : (s.setI w).read k = s.read k := rfl
@[simp] theorem State.setI_reg (s : State) (w : Word) (q : Reg) : (s.setI w).reg q = s.reg q := rfl

/-! #### `State.setDt` -/

@[simp] theorem State.setDt_v (s : State) (b : Byte) : (s.setDt b).v = s.v := rfl
@[simp] theorem State.setDt_i (s : State) (b : Byte) : (s.setDt b).i = s.i := rfl
@[simp] theorem State.setDt_pc (s : State) (b : Byte) : (s.setDt b).pc = s.pc := rfl
@[simp] theorem State.setDt_sp (s : State) (b : Byte) : (s.setDt b).sp = s.sp := rfl
@[simp] theorem State.setDt_stack (s : State) (b : Byte) : (s.setDt b).stack = s.stack := rfl
@[simp] theorem State.setDt_dt (s : State) (b : Byte) : (s.setDt b).dt = b := rfl
@[simp] theorem State.setDt_st (s : State) (b : Byte) : (s.setDt b).st = s.st := rfl
@[simp] theorem State.setDt_mem (s : State) (b : Byte) : (s.setDt b).mem = s.mem := rfl
@[simp] theorem State.setDt_display (s : State) (b : Byte) : (s.setDt b).display = s.display := rfl
@[simp] theorem State.setDt_keys (s : State) (b : Byte) : (s.setDt b).keys = s.keys := rfl
@[simp] theorem State.setDt_runState (s : State) (b : Byte) : (s.setDt b).runState = s.runState := rfl
@[simp] theorem State.setDt_faultCause (s : State) (b : Byte) : (s.setDt b).faultCause = s.faultCause := rfl
@[simp] theorem State.setDt_faultPc (s : State) (b : Byte) : (s.setDt b).faultPc = s.faultPc := rfl
@[simp] theorem State.setDt_faultAddr (s : State) (b : Byte) : (s.setDt b).faultAddr = s.faultAddr := rfl
@[simp] theorem State.setDt_unmappedCount (s : State) (b : Byte) : (s.setDt b).unmappedCount = s.unmappedCount := rfl
@[simp] theorem State.setDt_lastUnmapped (s : State) (b : Byte) : (s.setDt b).lastUnmapped = s.lastUnmapped := rfl
@[simp] theorem State.setDt_keyWait (s : State) (b : Byte) : (s.setDt b).keyWait = s.keyWait := rfl
@[simp] theorem State.setDt_loadStatus (s : State) (b : Byte) : (s.setDt b).loadStatus = s.loadStatus := rfl
@[simp] theorem State.setDt_params (s : State) (b : Byte) : (s.setDt b).params = s.params := rfl
@[simp] theorem State.setDt_randIn (s : State) (b : Byte) : (s.setDt b).randIn = s.randIn := rfl
@[simp] theorem State.setDt_draws (s : State) (b : Byte) : (s.setDt b).draws = s.draws := rfl
@[simp] theorem State.setDt_schedule (s : State) (b : Byte) : (s.setDt b).schedule = s.schedule := rfl
@[simp] theorem State.setDt_lastResult (s : State) (b : Byte) : (s.setDt b).lastResult = s.lastResult := rfl
@[simp] theorem State.setDt_read (s : State) (b : Byte) (k : Nat) : (s.setDt b).read k = s.read k := rfl
@[simp] theorem State.setDt_reg (s : State) (b : Byte) (q : Reg) : (s.setDt b).reg q = s.reg q := rfl

/-! #### `State.setSt` -/

@[simp] theorem State.setSt_v (s : State) (b : Byte) : (s.setSt b).v = s.v := rfl
@[simp] theorem State.setSt_i (s : State) (b : Byte) : (s.setSt b).i = s.i := rfl
@[simp] theorem State.setSt_pc (s : State) (b : Byte) : (s.setSt b).pc = s.pc := rfl
@[simp] theorem State.setSt_sp (s : State) (b : Byte) : (s.setSt b).sp = s.sp := rfl
@[simp] theorem State.setSt_stack (s : State) (b : Byte) : (s.setSt b).stack = s.stack := rfl
@[simp] theorem State.setSt_dt (s : State) (b : Byte) : (s.setSt b).dt = s.dt := rfl
@[simp] theorem State.setSt_st (s : State) (b : Byte) : (s.setSt b).st = b := rfl
@[simp] theorem State.setSt_mem (s : State) (b : Byte) : (s.setSt b).mem = s.mem := rfl
@[simp] theorem State.setSt_display (s : State) (b : Byte) : (s.setSt b).display = s.display := rfl
@[simp] theorem State.setSt_keys (s : State) (b : Byte) : (s.setSt b).keys = s.keys := rfl
@[simp] theorem State.setSt_runState (s : State) (b : Byte) : (s.setSt b).runState = s.runState := rfl
@[simp] theorem State.setSt_faultCause (s : State) (b : Byte) : (s.setSt b).faultCause = s.faultCause := rfl
@[simp] theorem State.setSt_faultPc (s : State) (b : Byte) : (s.setSt b).faultPc = s.faultPc := rfl
@[simp] theorem State.setSt_faultAddr (s : State) (b : Byte) : (s.setSt b).faultAddr = s.faultAddr := rfl
@[simp] theorem State.setSt_unmappedCount (s : State) (b : Byte) : (s.setSt b).unmappedCount = s.unmappedCount := rfl
@[simp] theorem State.setSt_lastUnmapped (s : State) (b : Byte) : (s.setSt b).lastUnmapped = s.lastUnmapped := rfl
@[simp] theorem State.setSt_keyWait (s : State) (b : Byte) : (s.setSt b).keyWait = s.keyWait := rfl
@[simp] theorem State.setSt_loadStatus (s : State) (b : Byte) : (s.setSt b).loadStatus = s.loadStatus := rfl
@[simp] theorem State.setSt_params (s : State) (b : Byte) : (s.setSt b).params = s.params := rfl
@[simp] theorem State.setSt_randIn (s : State) (b : Byte) : (s.setSt b).randIn = s.randIn := rfl
@[simp] theorem State.setSt_draws (s : State) (b : Byte) : (s.setSt b).draws = s.draws := rfl
@[simp] theorem State.setSt_schedule (s : State) (b : Byte) : (s.setSt b).schedule = s.schedule := rfl
@[simp] theorem State.setSt_lastResult (s : State) (b : Byte) : (s.setSt b).lastResult = s.lastResult := rfl
@[simp] theorem State.setSt_read (s : State) (b : Byte) (k : Nat) : (s.setSt b).read k = s.read k := rfl
@[simp] theorem State.setSt_reg (s : State) (b : Byte) (q : Reg) : (s.setSt b).reg q = s.reg q := rfl

/-! #### `State.writeBytes` -/

@[simp] theorem State.writeBytes_v (s : State) (a : Nat) (bs : List Byte) : (s.writeBytes a bs).v = s.v := rfl
@[simp] theorem State.writeBytes_i (s : State) (a : Nat) (bs : List Byte) : (s.writeBytes a bs).i = s.i := rfl
@[simp] theorem State.writeBytes_pc (s : State) (a : Nat) (bs : List Byte) : (s.writeBytes a bs).pc = s.pc := rfl
@[simp] theorem State.writeBytes_sp (s : State) (a : Nat) (bs : List Byte) : (s.writeBytes a bs).sp = s.sp := rfl
@[simp] theorem State.writeBytes_stack (s : State) (a : Nat) (bs : List Byte) : (s.writeBytes a bs).stack = s.stack := rfl
@[simp] theorem State.writeBytes_dt (s : State) (a : Nat) (bs : List Byte) : (s.writeBytes a bs).dt = s.dt := rfl
@[simp] theorem State.writeBytes_st (s : State) (a : Nat) (bs : List Byte) : (s.writeBytes a bs).st = s.st := rfl
@[simp] theorem State.writeBytes_mem (s : State) (a : Nat) (bs : List Byte) : (s.writeBytes a bs).mem = s.mem.writeBytes s.params.font a bs := rfl
@[simp] theorem State.writeBytes_display (s : State) (a : Nat) (bs : List Byte) : (s.writeBytes a bs).display = s.display := rfl
@[simp] theorem State.writeBytes_keys (s : State) (a : Nat) (bs : List Byte) : (s.writeBytes a bs).keys = s.keys := rfl
@[simp] theorem State.writeBytes_runState (s : State) (a : Nat) (bs : List Byte) : (s.writeBytes a bs).runState = s.runState := rfl
@[simp] theorem State.writeBytes_faultCause (s : State) (a : Nat) (bs : List Byte) : (s.writeBytes a bs).faultCause = s.faultCause := rfl
@[simp] theorem State.writeBytes_faultPc (s : State) (a : Nat) (bs : List Byte) : (s.writeBytes a bs).faultPc = s.faultPc := rfl
@[simp] theorem State.writeBytes_faultAddr (s : State) (a : Nat) (bs : List Byte) : (s.writeBytes a bs).faultAddr = s.faultAddr := rfl
@[simp] theorem State.writeBytes_unmappedCount (s : State) (a : Nat) (bs : List Byte) : (s.writeBytes a bs).unmappedCount = s.unmappedCount := rfl
@[simp] theorem State.writeBytes_lastUnmapped (s : State) (a : Nat) (bs : List Byte) : (s.writeBytes a bs).lastUnmapped = s.lastUnmapped := rfl
@[simp] theorem State.writeBytes_keyWait (s : State) (a : Nat) (bs : List Byte) : (s.writeBytes a bs).keyWait = s.keyWait := rfl
@[simp] theorem State.writeBytes_loadStatus (s : State) (a : Nat) (bs : List Byte) : (s.writeBytes a bs).loadStatus = s.loadStatus := rfl
@[simp] theorem State.writeBytes_params (s : State) (a : Nat) (bs : List Byte) : (s.writeBytes a bs).params = s.params := rfl
@[simp] theorem State.writeBytes_randIn (s : State) (a : Nat) (bs : List Byte) : (s.writeBytes a bs).randIn = s.randIn := rfl
@[simp] theorem State.writeBytes_draws (s : State) (a : Nat) (bs : List Byte) : (s.writeBytes a bs).draws = s.draws := rfl
@[simp] theorem State.writeBytes_schedule (s : State) (a : Nat) (bs : List Byte) : (s.writeBytes a bs).schedule = s.schedule := rfl
@[simp] theorem State.writeBytes_lastResult (s : State) (a : Nat) (bs : List Byte) : (s.writeBytes a bs).lastResult = s.lastResult := rfl
@[simp] theorem State.writeBytes_reg (s : State) (a : Nat) (bs : List Byte) (q : Reg) : (s.writeBytes a bs).reg q = s.reg q := rfl

/-! #### `State.setDisplay` -/

@[simp] theorem State.setDisplay_v (s : State) (d : Display) : (s.setDisplay d).v = s.v := rfl
@[simp] theorem State.setDisplay_i (s : State) (d : Display) : (s.setDisplay d).i = s.i := rfl
@[simp] theorem State.setDisplay_pc (s : State) (d : Display) : (s.setDisplay d).pc = s.pc := rfl
@[simp] theorem State.setDisplay_sp (s : State) (d : Display) : (s.setDisplay d).sp = s.sp := rfl
@[simp] theorem State.setDisplay_stack (s : State) (d : Display) : (s.setDisplay d).stack = s.stack := rfl
@[simp] theorem State.setDisplay_dt (s : State) (d : Display) : (s.setDisplay d).dt = s.dt := rfl
@[simp] theorem State.setDisplay_st (s : State) (d : Display) : (s.setDisplay d).st = s.st := rfl
@[simp] theorem State.setDisplay_mem (s : State) (d : Display) : (s.setDisplay d).mem = s.mem := rfl
@[simp] theorem State.setDisplay_display (s : State) (d : Display) : (s.setDisplay d).display = d := rfl
@[simp] theorem State.setDisplay_keys (s : State) (d : Display) : (s.setDisplay d).keys = s.keys := rfl
@[simp] theorem State.setDisplay_runState (s : State) (d : Display) : (s.setDisplay d).runState = s.runState := rfl
@[simp] theorem State.setDisplay_faultCause (s : State) (d : Display) : (s.setDisplay d).faultCause = s.faultCause := rfl
@[simp] theorem State.setDisplay_faultPc (s : State) (d : Display) : (s.setDisplay d).faultPc = s.faultPc := rfl
@[simp] theorem State.setDisplay_faultAddr (s : State) (d : Display) : (s.setDisplay d).faultAddr = s.faultAddr := rfl
@[simp] theorem State.setDisplay_unmappedCount (s : State) (d : Display) : (s.setDisplay d).unmappedCount = s.unmappedCount := rfl
@[simp] theorem State.setDisplay_lastUnmapped (s : State) (d : Display) : (s.setDisplay d).lastUnmapped = s.lastUnmapped := rfl
@[simp] theorem State.setDisplay_keyWait (s : State) (d : Display) : (s.setDisplay d).keyWait = s.keyWait := rfl
@[simp] theorem State.setDisplay_loadStatus (s : State) (d : Display) : (s.setDisplay d).loadStatus = s.loadStatus := rfl
@[simp] theorem State.setDisplay_params (s : State) (d : Display) : (s.setDisplay d).params = s.params := rfl
@[simp] theorem State.setDisplay_randIn (s : State) (d : Display) : (s.setDisplay d).randIn = s.randIn := rfl
@[simp] theorem State.setDisplay_draws (s : State) (d : Display) : (s.setDisplay d).draws = s.draws := rfl
@[simp] theorem State.setDisplay_schedule (s : State) (d : Display) : (s.setDisplay d).schedule = s.schedule := rfl
@[simp] theorem State.setDisplay_lastResult (s : State) (d : Display) : (s.setDisplay d).lastResult = s.lastResult := rfl
@[simp] theorem State.setDisplay_read (s : State) (d : Display) (k : Nat) : (s.setDisplay d).read k = s.read k := rfl
@[simp] theorem State.setDisplay_reg (s : State) (d : Display) (q : Reg) : (s.setDisplay d).reg q = s.reg q := rfl

/-! #### `State.setKeyWait` -/

@[simp] theorem State.setKeyWait_v (s : State) (b : Bool) : (s.setKeyWait b).v = s.v := rfl
@[simp] theorem State.setKeyWait_i (s : State) (b : Bool) : (s.setKeyWait b).i = s.i := rfl
@[simp] theorem State.setKeyWait_pc (s : State) (b : Bool) : (s.setKeyWait b).pc = s.pc := rfl
@[simp] theorem State.setKeyWait_sp (s : State) (b : Bool) : (s.setKeyWait b).sp = s.sp := rfl
@[simp] theorem State.setKeyWait_stack (s : State) (b : Bool) : (s.setKeyWait b).stack = s.stack := rfl
@[simp] theorem State.setKeyWait_dt (s : State) (b : Bool) : (s.setKeyWait b).dt = s.dt := rfl
@[simp] theorem State.setKeyWait_st (s : State) (b : Bool) : (s.setKeyWait b).st = s.st := rfl
@[simp] theorem State.setKeyWait_mem (s : State) (b : Bool) : (s.setKeyWait b).mem = s.mem := rfl
@[simp] theorem State.setKeyWait_display (s : State) (b : Bool) : (s.setKeyWait b).display = s.display := rfl
@[simp] theorem State.setKeyWait_keys (s : State) (b : Bool) : (s.setKeyWait b).keys = s.keys := rfl
@[simp] theorem State.setKeyWait_runState (s : State) (b : Bool) : (s.setKeyWait b).runState = s.runState := rfl
@[simp] theorem State.setKeyWait_faultCause (s : State) (b : Bool) : (s.setKeyWait b).faultCause = s.faultCause := rfl
@[simp] theorem State.setKeyWait_faultPc (s : State) (b : Bool) : (s.setKeyWait b).faultPc = s.faultPc := rfl
@[simp] theorem State.setKeyWait_faultAddr (s : State) (b : Bool) : (s.setKeyWait b).faultAddr = s.faultAddr := rfl
@[simp] theorem State.setKeyWait_unmappedCount (s : State) (b : Bool) : (s.setKeyWait b).unmappedCount = s.unmappedCount := rfl
@[simp] theorem State.setKeyWait_lastUnmapped (s : State) (b : Bool) : (s.setKeyWait b).lastUnmapped = s.lastUnmapped := rfl
@[simp] theorem State.setKeyWait_keyWait (s : State) (b : Bool) : (s.setKeyWait b).keyWait = b := rfl
@[simp] theorem State.setKeyWait_loadStatus (s : State) (b : Bool) : (s.setKeyWait b).loadStatus = s.loadStatus := rfl
@[simp] theorem State.setKeyWait_params (s : State) (b : Bool) : (s.setKeyWait b).params = s.params := rfl
@[simp] theorem State.setKeyWait_randIn (s : State) (b : Bool) : (s.setKeyWait b).randIn = s.randIn := rfl
@[simp] theorem State.setKeyWait_draws (s : State) (b : Bool) : (s.setKeyWait b).draws = s.draws := rfl
@[simp] theorem State.setKeyWait_schedule (s : State) (b : Bool) : (s.setKeyWait b).schedule = s.schedule := rfl
@[simp] theorem State.setKeyWait_lastResult (s : State) (b : Bool) : (s.setKeyWait b).lastResult = s.lastResult := rfl
@[simp] theorem State.setKeyWait_read (s : State) (b : Bool) (k : Nat) : (s.setKeyWait b).read k = s.read k := rfl
@[simp] theorem State.setKeyWait_reg (s : State) (b : Bool) (q : Reg) : (s.setKeyWait b).reg q = s.reg q := rfl

/-! #### `State.skip` -/

@[simp] theorem State.skip_v (s : State) : s.skip.v = s.v := rfl
@[simp] theorem State.skip_i (s : State) : s.skip.i = s.i := rfl
@[simp] theorem State.skip_pc (s : State) : s.skip.pc = s.pc + 2 := rfl
@[simp] theorem State.skip_sp (s : State) : s.skip.sp = s.sp := rfl
@[simp] theorem State.skip_stack (s : State) : s.skip.stack = s.stack := rfl
@[simp] theorem State.skip_dt (s : State) : s.skip.dt = s.dt := rfl
@[simp] theorem State.skip_st (s : State) : s.skip.st = s.st := rfl
@[simp] theorem State.skip_mem (s : State) : s.skip.mem = s.mem := rfl
@[simp] theorem State.skip_display (s : State) : s.skip.display = s.display := rfl
@[simp] theorem State.skip_keys (s : State) : s.skip.keys = s.keys := rfl
@[simp] theorem State.skip_runState (s : State) : s.skip.runState = s.runState := rfl
@[simp] theorem State.skip_faultCause (s : State) : s.skip.faultCause = s.faultCause := rfl
@[simp] theorem State.skip_faultPc (s : State) : s.skip.faultPc = s.faultPc := rfl
@[simp] theorem State.skip_faultAddr (s : State) : s.skip.faultAddr = s.faultAddr := rfl
@[simp] theorem State.skip_unmappedCount (s : State) : s.skip.unmappedCount = s.unmappedCount := rfl
@[simp] theorem State.skip_lastUnmapped (s : State) : s.skip.lastUnmapped = s.lastUnmapped := rfl
@[simp] theorem State.skip_keyWait (s : State) : s.skip.keyWait = s.keyWait := rfl
@[simp] theorem State.skip_loadStatus (s : State) : s.skip.loadStatus = s.loadStatus := rfl
@[simp] theorem State.skip_params (s : State) : s.skip.params = s.params := rfl
@[simp] theorem State.skip_randIn (s : State) : s.skip.randIn = s.randIn := rfl
@[simp] theorem State.skip_draws (s : State) : s.skip.draws = s.draws := rfl
@[simp] theorem State.skip_schedule (s : State) : s.skip.schedule = s.schedule := rfl
@[simp] theorem State.skip_lastResult (s : State) : s.skip.lastResult = s.lastResult := rfl
@[simp] theorem State.skip_read (s : State) (k : Nat) : s.skip.read k = s.read k := rfl
@[simp] theorem State.skip_reg (s : State) (q : Reg) : s.skip.reg q = s.reg q := rfl

/-! #### `State.push` -/

@[simp] theorem State.push_v (s : State) (w : Word) : (s.push w).v = s.v := rfl
@[simp] theorem State.push_i (s : State) (w : Word) : (s.push w).i = s.i := rfl
@[simp] theorem State.push_pc (s : State) (w : Word) : (s.push w).pc = s.pc := rfl
@[simp] theorem State.push_sp (s : State) (w : Word) : (s.push w).sp = s.sp + 1 := rfl
@[simp] theorem State.push_stack (s : State) (w : Word) : (s.push w).stack = s.stack.setIfInBounds s.sp.toNat w := rfl
@[simp] theorem State.push_dt (s : State) (w : Word) : (s.push w).dt = s.dt := rfl
@[simp] theorem State.push_st (s : State) (w : Word) : (s.push w).st = s.st := rfl
@[simp] theorem State.push_mem (s : State) (w : Word) : (s.push w).mem = s.mem := rfl
@[simp] theorem State.push_display (s : State) (w : Word) : (s.push w).display = s.display := rfl
@[simp] theorem State.push_keys (s : State) (w : Word) : (s.push w).keys = s.keys := rfl
@[simp] theorem State.push_runState (s : State) (w : Word) : (s.push w).runState = s.runState := rfl
@[simp] theorem State.push_faultCause (s : State) (w : Word) : (s.push w).faultCause = s.faultCause := rfl
@[simp] theorem State.push_faultPc (s : State) (w : Word) : (s.push w).faultPc = s.faultPc := rfl
@[simp] theorem State.push_faultAddr (s : State) (w : Word) : (s.push w).faultAddr = s.faultAddr := rfl
@[simp] theorem State.push_unmappedCount (s : State) (w : Word) : (s.push w).unmappedCount = s.unmappedCount := rfl
@[simp] theorem State.push_lastUnmapped (s : State) (w : Word) : (s.push w).lastUnmapped = s.lastUnmapped := rfl
@[simp] theorem State.push_keyWait (s : State) (w : Word) : (s.push w).keyWait = s.keyWait := rfl
@[simp] theorem State.push_loadStatus (s : State) (w : Word) : (s.push w).loadStatus = s.loadStatus := rfl
@[simp] theorem State.push_params (s : State) (w : Word) : (s.push w).params = s.params := rfl
@[simp] theorem State.push_randIn (s : State) (w : Word) : (s.push w).randIn = s.randIn := rfl
@[simp] theorem State.push_draws (s : State) (w : Word) : (s.push w).draws = s.draws := rfl
@[simp] theorem State.push_schedule (s : State) (w : Word) : (s.push w).schedule = s.schedule := rfl
@[simp] theorem State.push_lastResult (s : State) (w : Word) : (s.push w).lastResult = s.lastResult := rfl
@[simp] theorem State.push_read (s : State) (w : Word) (k : Nat) : (s.push w).read k = s.read k := rfl
@[simp] theorem State.push_reg (s : State) (w : Word) (q : Reg) : (s.push w).reg q = s.reg q := rfl

/-! #### `State.pop` -/

@[simp] theorem State.pop_v (s : State) : s.pop.v = s.v := rfl
@[simp] theorem State.pop_i (s : State) : s.pop.i = s.i := rfl
@[simp] theorem State.pop_pc (s : State) : s.pop.pc = s.pc := rfl
@[simp] theorem State.pop_sp (s : State) : s.pop.sp = s.sp - 1 := rfl
@[simp] theorem State.pop_stack (s : State) : s.pop.stack = s.stack := rfl
@[simp] theorem State.pop_dt (s : State) : s.pop.dt = s.dt := rfl
@[simp] theorem State.pop_st (s : State) : s.pop.st = s.st := rfl
@[simp] theorem State.pop_mem (s : State) : s.pop.mem = s.mem := rfl
@[simp] theorem State.pop_display (s : State) : s.pop.display = s.display := rfl
@[simp] theorem State.pop_keys (s : State) : s.pop.keys = s.keys := rfl
@[simp] theorem State.pop_runState (s : State) : s.pop.runState = s.runState := rfl
@[simp] theorem State.pop_faultCause (s : State) : s.pop.faultCause = s.faultCause := rfl
@[simp] theorem State.pop_faultPc (s : State) : s.pop.faultPc = s.faultPc := rfl
@[simp] theorem State.pop_faultAddr (s : State) : s.pop.faultAddr = s.faultAddr := rfl
@[simp] theorem State.pop_unmappedCount (s : State) : s.pop.unmappedCount = s.unmappedCount := rfl
@[simp] theorem State.pop_lastUnmapped (s : State) : s.pop.lastUnmapped = s.lastUnmapped := rfl
@[simp] theorem State.pop_keyWait (s : State) : s.pop.keyWait = s.keyWait := rfl
@[simp] theorem State.pop_loadStatus (s : State) : s.pop.loadStatus = s.loadStatus := rfl
@[simp] theorem State.pop_params (s : State) : s.pop.params = s.params := rfl
@[simp] theorem State.pop_randIn (s : State) : s.pop.randIn = s.randIn := rfl
@[simp] theorem State.pop_draws (s : State) : s.pop.draws = s.draws := rfl
@[simp] theorem State.pop_schedule (s : State) : s.pop.schedule = s.schedule := rfl
@[simp] theorem State.pop_lastResult (s : State) : s.pop.lastResult = s.lastResult := rfl
@[simp] theorem State.pop_read (s : State) (k : Nat) : s.pop.read k = s.read k := rfl
@[simp] theorem State.pop_reg (s : State) (q : Reg) : s.pop.reg q = s.reg q := rfl

/-! #### `State.enterFault` -/

@[simp] theorem State.enterFault_v (s : State) (a : Word) (c : FaultCause) (d : Word) : (s.enterFault a c d).v = s.v := rfl
@[simp] theorem State.enterFault_i (s : State) (a : Word) (c : FaultCause) (d : Word) : (s.enterFault a c d).i = s.i := rfl
@[simp] theorem State.enterFault_pc (s : State) (a : Word) (c : FaultCause) (d : Word) : (s.enterFault a c d).pc = a := rfl
@[simp] theorem State.enterFault_sp (s : State) (a : Word) (c : FaultCause) (d : Word) : (s.enterFault a c d).sp = s.sp := rfl
@[simp] theorem State.enterFault_stack (s : State) (a : Word) (c : FaultCause) (d : Word) : (s.enterFault a c d).stack = s.stack := rfl
@[simp] theorem State.enterFault_dt (s : State) (a : Word) (c : FaultCause) (d : Word) : (s.enterFault a c d).dt = s.dt := rfl
@[simp] theorem State.enterFault_st (s : State) (a : Word) (c : FaultCause) (d : Word) : (s.enterFault a c d).st = s.st := rfl
@[simp] theorem State.enterFault_mem (s : State) (a : Word) (c : FaultCause) (d : Word) : (s.enterFault a c d).mem = s.mem := rfl
@[simp] theorem State.enterFault_display (s : State) (a : Word) (c : FaultCause) (d : Word) : (s.enterFault a c d).display = s.display := rfl
@[simp] theorem State.enterFault_keys (s : State) (a : Word) (c : FaultCause) (d : Word) : (s.enterFault a c d).keys = s.keys := rfl
@[simp] theorem State.enterFault_runState (s : State) (a : Word) (c : FaultCause) (d : Word) : (s.enterFault a c d).runState = .faulted := rfl
@[simp] theorem State.enterFault_faultCause (s : State) (a : Word) (c : FaultCause) (d : Word) : (s.enterFault a c d).faultCause = c := rfl
@[simp] theorem State.enterFault_faultPc (s : State) (a : Word) (c : FaultCause) (d : Word) : (s.enterFault a c d).faultPc = a := rfl
@[simp] theorem State.enterFault_faultAddr (s : State) (a : Word) (c : FaultCause) (d : Word) : (s.enterFault a c d).faultAddr = d := rfl
@[simp] theorem State.enterFault_unmappedCount (s : State) (a : Word) (c : FaultCause) (d : Word) : (s.enterFault a c d).unmappedCount = s.unmappedCount := rfl
@[simp] theorem State.enterFault_lastUnmapped (s : State) (a : Word) (c : FaultCause) (d : Word) : (s.enterFault a c d).lastUnmapped = s.lastUnmapped := rfl
@[simp] theorem State.enterFault_keyWait (s : State) (a : Word) (c : FaultCause) (d : Word) : (s.enterFault a c d).keyWait = s.keyWait := rfl
@[simp] theorem State.enterFault_loadStatus (s : State) (a : Word) (c : FaultCause) (d : Word) : (s.enterFault a c d).loadStatus = s.loadStatus := rfl
@[simp] theorem State.enterFault_params (s : State) (a : Word) (c : FaultCause) (d : Word) : (s.enterFault a c d).params = s.params := rfl
@[simp] theorem State.enterFault_randIn (s : State) (a : Word) (c : FaultCause) (d : Word) : (s.enterFault a c d).randIn = s.randIn := rfl
@[simp] theorem State.enterFault_draws (s : State) (a : Word) (c : FaultCause) (d : Word) : (s.enterFault a c d).draws = s.draws := rfl
@[simp] theorem State.enterFault_schedule (s : State) (a : Word) (c : FaultCause) (d : Word) : (s.enterFault a c d).schedule = s.schedule := rfl
@[simp] theorem State.enterFault_lastResult (s : State) (a : Word) (c : FaultCause) (d : Word) : (s.enterFault a c d).lastResult = s.lastResult := rfl
@[simp] theorem State.enterFault_read (s : State) (a : Word) (c : FaultCause) (d : Word) (k : Nat) : (s.enterFault a c d).read k = s.read k := rfl
@[simp] theorem State.enterFault_reg (s : State) (a : Word) (c : FaultCause) (d : Word) (q : Reg) : (s.enterFault a c d).reg q = s.reg q := rfl

/-! #### `State.raise` -/

@[simp] theorem State.raise_v (s : State) (c : FaultCause) (d : Word) : (s.raise c d).v = s.v := rfl
@[simp] theorem State.raise_i (s : State) (c : FaultCause) (d : Word) : (s.raise c d).i = s.i := rfl
@[simp] theorem State.raise_pc (s : State) (c : FaultCause) (d : Word) : (s.raise c d).pc = s.pc - 2 := rfl
@[simp] theorem State.raise_sp (s : State) (c : FaultCause) (d : Word) : (s.raise c d).sp = s.sp := rfl
@[simp] theorem State.raise_stack (s : State) (c : FaultCause) (d : Word) : (s.raise c d).stack = s.stack := rfl
@[simp] theorem State.raise_dt (s : State) (c : FaultCause) (d : Word) : (s.raise c d).dt = s.dt := rfl
@[simp] theorem State.raise_st (s : State) (c : FaultCause) (d : Word) : (s.raise c d).st = s.st := rfl
@[simp] theorem State.raise_mem (s : State) (c : FaultCause) (d : Word) : (s.raise c d).mem = s.mem := rfl
@[simp] theorem State.raise_display (s : State) (c : FaultCause) (d : Word) : (s.raise c d).display = s.display := rfl
@[simp] theorem State.raise_keys (s : State) (c : FaultCause) (d : Word) : (s.raise c d).keys = s.keys := rfl
@[simp] theorem State.raise_runState (s : State) (c : FaultCause) (d : Word) : (s.raise c d).runState = .faulted := rfl
@[simp] theorem State.raise_faultCause (s : State) (c : FaultCause) (d : Word) : (s.raise c d).faultCause = c := rfl
@[simp] theorem State.raise_faultPc (s : State) (c : FaultCause) (d : Word) : (s.raise c d).faultPc = s.pc - 2 := rfl
@[simp] theorem State.raise_faultAddr (s : State) (c : FaultCause) (d : Word) : (s.raise c d).faultAddr = d := rfl
@[simp] theorem State.raise_unmappedCount (s : State) (c : FaultCause) (d : Word) : (s.raise c d).unmappedCount = s.unmappedCount := rfl
@[simp] theorem State.raise_lastUnmapped (s : State) (c : FaultCause) (d : Word) : (s.raise c d).lastUnmapped = s.lastUnmapped := rfl
@[simp] theorem State.raise_keyWait (s : State) (c : FaultCause) (d : Word) : (s.raise c d).keyWait = s.keyWait := rfl
@[simp] theorem State.raise_loadStatus (s : State) (c : FaultCause) (d : Word) : (s.raise c d).loadStatus = s.loadStatus := rfl
@[simp] theorem State.raise_params (s : State) (c : FaultCause) (d : Word) : (s.raise c d).params = s.params := rfl
@[simp] theorem State.raise_randIn (s : State) (c : FaultCause) (d : Word) : (s.raise c d).randIn = s.randIn := rfl
@[simp] theorem State.raise_draws (s : State) (c : FaultCause) (d : Word) : (s.raise c d).draws = s.draws := rfl
@[simp] theorem State.raise_schedule (s : State) (c : FaultCause) (d : Word) : (s.raise c d).schedule = s.schedule := rfl
@[simp] theorem State.raise_lastResult (s : State) (c : FaultCause) (d : Word) : (s.raise c d).lastResult = s.lastResult := rfl
@[simp] theorem State.raise_read (s : State) (c : FaultCause) (d : Word) (k : Nat) : (s.raise c d).read k = s.read k := rfl
@[simp] theorem State.raise_reg (s : State) (c : FaultCause) (d : Word) (q : Reg) : (s.raise c d).reg q = s.reg q := rfl

/-! #### `State.countUnmapped` -/

@[simp] theorem State.countUnmapped_v (s : State) (w : Word) : (s.countUnmapped w).v = s.v := rfl
@[simp] theorem State.countUnmapped_i (s : State) (w : Word) : (s.countUnmapped w).i = s.i := rfl
@[simp] theorem State.countUnmapped_pc (s : State) (w : Word) : (s.countUnmapped w).pc = s.pc := rfl
@[simp] theorem State.countUnmapped_sp (s : State) (w : Word) : (s.countUnmapped w).sp = s.sp := rfl
@[simp] theorem State.countUnmapped_stack (s : State) (w : Word) : (s.countUnmapped w).stack = s.stack := rfl
@[simp] theorem State.countUnmapped_dt (s : State) (w : Word) : (s.countUnmapped w).dt = s.dt := rfl
@[simp] theorem State.countUnmapped_st (s : State) (w : Word) : (s.countUnmapped w).st = s.st := rfl
@[simp] theorem State.countUnmapped_mem (s : State) (w : Word) : (s.countUnmapped w).mem = s.mem := rfl
@[simp] theorem State.countUnmapped_display (s : State) (w : Word) : (s.countUnmapped w).display = s.display := rfl
@[simp] theorem State.countUnmapped_keys (s : State) (w : Word) : (s.countUnmapped w).keys = s.keys := rfl
@[simp] theorem State.countUnmapped_runState (s : State) (w : Word) : (s.countUnmapped w).runState = s.runState := rfl
@[simp] theorem State.countUnmapped_faultCause (s : State) (w : Word) : (s.countUnmapped w).faultCause = s.faultCause := rfl
@[simp] theorem State.countUnmapped_faultPc (s : State) (w : Word) : (s.countUnmapped w).faultPc = s.faultPc := rfl
@[simp] theorem State.countUnmapped_faultAddr (s : State) (w : Word) : (s.countUnmapped w).faultAddr = s.faultAddr := rfl
@[simp] theorem State.countUnmapped_unmappedCount (s : State) (w : Word) : (s.countUnmapped w).unmappedCount = s.unmappedCount + 1 := rfl
@[simp] theorem State.countUnmapped_lastUnmapped (s : State) (w : Word) : (s.countUnmapped w).lastUnmapped = w := rfl
@[simp] theorem State.countUnmapped_keyWait (s : State) (w : Word) : (s.countUnmapped w).keyWait = s.keyWait := rfl
@[simp] theorem State.countUnmapped_loadStatus (s : State) (w : Word) : (s.countUnmapped w).loadStatus = s.loadStatus := rfl
@[simp] theorem State.countUnmapped_params (s : State) (w : Word) : (s.countUnmapped w).params = s.params := rfl
@[simp] theorem State.countUnmapped_randIn (s : State) (w : Word) : (s.countUnmapped w).randIn = s.randIn := rfl
@[simp] theorem State.countUnmapped_draws (s : State) (w : Word) : (s.countUnmapped w).draws = s.draws := rfl
@[simp] theorem State.countUnmapped_schedule (s : State) (w : Word) : (s.countUnmapped w).schedule = s.schedule := rfl
@[simp] theorem State.countUnmapped_lastResult (s : State) (w : Word) : (s.countUnmapped w).lastResult = s.lastResult := rfl
@[simp] theorem State.countUnmapped_read (s : State) (w : Word) (k : Nat) : (s.countUnmapped w).read k = s.read k := rfl
@[simp] theorem State.countUnmapped_reg (s : State) (w : Word) (q : Reg) : (s.countUnmapped w).reg q = s.reg q := rfl

/-! ### Registers -/

theorem State.reg_setReg (s : State) (r q : Reg) (b : Byte) :
    (s.setReg r b).reg q = if q = r then b else s.reg q := by
  simp only [State.reg, State.setReg, Vector.getElem_set, Fin.ext_iff, eq_comm]

@[simp] theorem State.reg_setReg_same (s : State) (r : Reg) (b : Byte) : (s.setReg r b).reg r = b := by
  simp [State.reg_setReg]

theorem State.reg_setReg_other (s : State) {r q : Reg} (b : Byte) (h : q ≠ r) : (s.setReg r b).reg q = s.reg q := by
  simp [State.reg_setReg, h]

/-- Writing a run of registers changes the registers only. -/
theorem State.setRegs_frame (bs : List Byte) : ∀ (s : State) (r : Nat),
    s.setRegs r bs = { s with v := (s.setRegs r bs).v } := by
  induction bs with
  | nil => intro s r; rfl
  | cons b bs ih => intro s r; rw [State.setRegs, ih]

@[simp] theorem State.setRegs_read (s : State) (r : Nat) (bs : List Byte) (a : Nat) :
    (s.setRegs r bs).read a = s.read a := by
  rw [State.setRegs_frame]; rfl

/-- How a register reads after a run of registers from `r` upwards is written. -/
theorem State.reg_setRegs (bs : List Byte) : ∀ (s : State) (r : Nat) (q : Reg),
    (s.setRegs r bs).reg q = if h : r ≤ q.val ∧ q.val - r < bs.length then bs[q.val - r]'h.2 else s.reg q := by
  induction bs with
  | nil => intro s r q; simp [State.setRegs]
  | cons b bs ih =>
    intro s r q
    rw [State.setRegs, ih]
    by_cases h1 : r + 1 ≤ q.val ∧ q.val - (r + 1) < bs.length
    · have h2 : r ≤ q.val ∧ q.val - r < (b :: bs).length := by simp only [List.length_cons]; omega
      rw [dif_pos h1, dif_pos h2]
      simp [show q.val - r = q.val - (r + 1) + 1 by omega]
    · rw [dif_neg h1]
      by_cases h3 : r = q.val
      · subst h3; simp [State.reg]
      · have h2 : ¬ (r ≤ q.val ∧ q.val - r < (b :: bs).length) := by simp only [List.length_cons]; omega
        rw [dif_neg h2]
        simp [State.reg, h3]

/-! ### Keys (45_timers_keys.md R215) -/

theorem lowestFrom_none {keys : BitVec 16} (n : Nat) : ∀ {k : Nat},
    lowestFrom keys k n = none ↔ ∀ j, k ≤ j → j < k + n → keys.getLsbD j = false := by
  induction n with
  | zero => intro k; simp [lowestFrom]; omega
  | succ n ih =>
    intro k
    rw [lowestFrom]
    split
    · rename_i h
      simp only [reduceCtorEq, false_iff, not_forall]
      exact ⟨k, Nat.le_refl k, by omega, by simp [h]⟩
    · rename_i h
      rw [ih]
      constructor
      · intro hj j h1 h2
        by_cases hk : j = k
        · subst hk; simpa using h
        · exact hj j (by omega) (by omega)
      · intro hj j h1 h2; exact hj j (by omega) (by omega)

theorem lowestFrom_some {keys : BitVec 16} (n : Nat) : ∀ {k j : Nat}, lowestFrom keys k n = some j →
    k ≤ j ∧ j < k + n ∧ keys.getLsbD j = true ∧ ∀ l, k ≤ l → l < j → keys.getLsbD l = false := by
  induction n with
  | zero => intro k j h; simp [lowestFrom] at h
  | succ n ih =>
    intro k j h
    rw [lowestFrom] at h
    split at h
    · rename_i hk
      obtain rfl : k = j := by simpa using h
      exact ⟨Nat.le_refl k, by omega, hk, fun l h1 h2 => by omega⟩
    · rename_i hk
      obtain ⟨h1, h2, h3, h4⟩ := ih h
      refine ⟨by omega, by omega, h3, fun l hl1 hl2 => ?_⟩
      by_cases hlk : l = k
      · subst hlk; simpa using hk
      · exact h4 l (by omega) hl2

/-- No key is pressed exactly where KEYS is 0. -/
theorem State.lowestKey_none {s : State} : s.lowestKey = none ↔ s.keys = 0 := by
  rw [State.lowestKey, lowestFrom_none]
  constructor
  · intro h
    apply BitVec.eq_of_getLsbD_eq
    intro j hj
    simpa using h j (Nat.zero_le j) (by omega)
  · intro h j _ _; simp [h]

/-- The key found is pressed, and none below it is. -/
theorem State.lowestKey_some {s : State} {k : Nat} (h : s.lowestKey = some k) :
    k < 16 ∧ s.keys.getLsbD k = true ∧ ∀ l < k, s.keys.getLsbD l = false := by
  obtain ⟨-, h2, h3, h4⟩ := lowestFrom_some 16 h
  exact ⟨by omega, h3, fun l hl => h4 l (Nat.zero_le l) hl⟩

end Sys2Proof.Machine
end

