-- ==== Sys2Proof/Laws/Exec.lean ====
section
/-! SUPPORT. What each shared operation can do: one lemma per operation, cited in place of unfolding it. -/

namespace Sys2Proof.Machine

/-! ### Ranges (20_memory.md R53) -/

theorem inRange_iff {base n : Nat} : inRange base n = true ↔ n = 0 ∨ base + n - 1 ≤ 0xFFF := by
  simp [inRange]

theorem firstBad_eq (w : Word) : firstBad w = BitVec.ofNat 16 (max w.toNat 0x1000) := by
  unfold firstBad
  split
  · rw [show max w.toNat 0x1000 = 0x1000 by omega]; rfl
  · rw [show max w.toNat 0x1000 = w.toNat by omega]; simp

theorem firstBad_toNat (w : Word) : (firstBad w).toNat = max w.toNat 0x1000 := by
  have := w.isLt
  rw [firstBad_eq, BitVec.toNat_ofNat, Nat.mod_eq_of_lt (by omega)]

theorem withRange_pos {n : Nat} {s body : State} (h : n = 0 ∨ s.i.toNat + n - 1 ≤ 0xFFF) :
    withRange n s body = .next body := by
  rw [withRange, if_pos (inRange_iff.2 h)]

theorem withRange_neg {n : Nat} {s body : State} (h0 : n ≠ 0) (h : 0xFFF < s.i.toNat + n - 1) :
    withRange n s body = .next (s.raise .memOob (firstBad s.i)) := by
  rw [withRange, if_neg]
  rw [inRange_iff]; omega

/-- A ranged access either does its work in range or raises MEM_OOB out of range; nothing else. -/
theorem withRange_cases {n : Nat} {s body t : State} (h : withRange n s body = .next t) :
    ((n = 0 ∨ s.i.toNat + n - 1 ≤ 0xFFF) ∧ t = body) ∨
      (n ≠ 0 ∧ 0xFFF < s.i.toNat + n - 1 ∧ t = s.raise .memOob (firstBad s.i)) := by
  by_cases hr : n = 0 ∨ s.i.toNat + n - 1 ≤ 0xFFF
  · rw [withRange_pos hr] at h
    exact .inl ⟨hr, by simpa using h.symm⟩
  · rw [withRange_neg (by omega) (by omega)] at h
    exact .inr ⟨by omega, by omega, by simpa using h.symm⟩

/-- A conditional skip answers the skipped state or the same state. -/
theorem skipIf_cases {c : Bool} {s t : State} (h : skipIf c s = .next t) :
    (c = true ∧ t = s.skip) ∨ (c = false ∧ t = s) := by
  cases c
  · exact .inr ⟨rfl, by simpa [skipIf] using h.symm⟩
  · exact .inl ⟨rfl, by simpa [skipIf] using h.symm⟩

/-! ### The stack (10_state.md R25) -/

/-- CALL pushes and jumps, or raises STACK_OVERFLOW with sixteen entries in use. -/
theorem execCallNnn_cases {nnn : BitVec 12} {s t : State} (h : execCallNnn nnn s = .next t) :
    (s.sp.toNat < 16 ∧ t = (s.push s.pc).setPc (addr12 nnn)) ∨
      (s.sp.toNat = 16 ∧ t = s.raise .stackOverflow 16) := by
  unfold execCallNnn at h
  split at h
  · exact .inl ⟨‹_›, by simpa using h.symm⟩
  · split at h
    · exact .inr ⟨‹_›, by simpa using h.symm⟩
    · simp at h

theorem execCallNnn_push {nnn : BitVec 12} {s : State} (h : s.sp.toNat < 16) :
    execCallNnn nnn s = .next ((s.push s.pc).setPc (addr12 nnn)) := if_pos h

theorem execCallNnn_overflow {nnn : BitVec 12} {s : State} (h : s.sp.toNat = 16) :
    execCallNnn nnn s = .next (s.raise .stackOverflow 16) := by
  unfold execCallNnn
  rw [if_neg (show ¬ s.sp.toNat < 16 by omega), if_pos h]

theorem execRet_pop {s : State} (h0 : s.sp ≠ 0) (hk : s.sp.toNat - 1 < 16) :
    execRet s = .next (s.pop.setPc s.stack[s.sp.toNat - 1]) := by
  unfold execRet
  rw [if_neg h0, Vector.getElem?_eq_getElem hk]

theorem execRet_underflow {s : State} (h : s.sp = 0) : execRet s = .next (s.raise .stackUnderflow 0) := if_pos h

/-- RET pops and returns, or raises STACK_UNDERFLOW with no entry in use. -/
theorem execRet_cases {s t : State} (h : execRet s = .next t) :
    (s.sp ≠ 0 ∧ ∃ hk : s.sp.toNat - 1 < 16, t = s.pop.setPc s.stack[s.sp.toNat - 1]) ∨
      (s.sp = 0 ∧ t = s.raise .stackUnderflow 0) := by
  unfold execRet at h
  split at h
  · exact .inr ⟨‹_›, by simpa using h.symm⟩
  · split at h
    · rename_i h0 _ w hw
      obtain ⟨hk, rfl⟩ := Vector.getElem?_eq_some_iff.1 hw
      exact .inl ⟨h0, hk, by simpa using h.symm⟩
    · simp at h

/-- FX0A rewinds with no key pressed, or latches the lowest pressed key. -/
theorem execLdVxK_cases {x : Reg} {s t : State} (h : execLdVxK x s = .next t) :
    (s.keys = 0 ∧ t = (s.setPc (s.pc - 2)).setKeyWait true) ∨
      ∃ k, k < 16 ∧ s.keys.getLsbD k = true ∧ (∀ l < k, s.keys.getLsbD l = false) ∧
        t = s.setReg x (BitVec.ofNat 8 k) := by
  unfold execLdVxK at h
  split at h
  · exact .inl ⟨State.lowestKey_none.1 ‹_›, by simpa using h.symm⟩
  · rename_i k hk
    obtain ⟨h1, h2, h3⟩ := State.lowestKey_some hk
    exact .inr ⟨k, h1, h2, h3, by simpa using h.symm⟩

/-- No instruction is refused (30_encoding.md R76). -/
theorem exec_not_refused (i : Instr) (s : State) (r : Refusal) : exec i s ≠ .refused r := by
  cases i <;> simp only [exec, execCls, execJpNnn, execSeVxNn, execSneVxNn, execSeVxVy, execLdVxNn, execAddVxNn,
    execLdVxVy, execOrVxVy, execAndVxVy, execXorVxVy, execAddVxVy, execSubVxVy, execShrVxVy, execSubnVxVy, subnWith,
    execShlVxVy, execSneVxVy, execLdINnn, execJpV0Nnn, execRndVxNn, execSkpVx, execSknpVx, execLdVxDt,
    execLdDtVx, execLdStVx, execAddIVx, execLdFVx, execUnmapped, skipIf, flagThenBinary, flagThenUnary,
    ne_eq, reduceCtorEq, not_false_eq_true]
  case ret => unfold execRet; split <;> (try split) <;> simp
  case callNnn => unfold execCallNnn; split <;> (try split) <;> simp
  case ldVxK => unfold execLdVxK; split <;> simp
  case drwVxVyN => unfold execDrwVxVyN withRange; split <;> simp
  case ldBVx => unfold execLdBVx withRange; split <;> simp
  case ldMemIVx => unfold execLdMemIVx withRange; split <;> simp
  case ldVxMemI => unfold execLdVxMemI withRange; split <;> simp

/-! ### Every instruction -/

/-- Why an instruction raises a fault, and the FAULT_ADDR it gives (60_exceptions.md R230). -/
def Raises (i : Instr) (s : State) (c : FaultCause) (a : Word) : Prop :=
  (c = .memOob ∧ a = firstBad s.i ∧
    ((∃ x y n, i = .drwVxVyN x y n ∧ n ≠ 0 ∧ 0xFFF < s.i.toNat + n.toNat - 1) ∨
      (∃ x, i = .ldBVx x ∧ 0xFFF < s.i.toNat + 2) ∨
      (∃ x, i = .ldMemIVx x ∧ 0xFFF < s.i.toNat + x.val) ∨
      ∃ x, i = .ldVxMemI x ∧ 0xFFF < s.i.toNat + x.val)) ∨
  (c = .stackOverflow ∧ a = 16 ∧ s.sp = 16 ∧ ∃ nnn, i = .callNnn nnn) ∨
  (c = .stackUnderflow ∧ a = 0 ∧ s.sp = 0 ∧ i = .ret)

/-- What any instruction can do: it writes no KEYS, no LOAD_STATUS, no run or fault state, no parameter and no field of
the model's own, or it raises a fault of R230's table and changes nothing else. -/
theorem exec_cases (i : Instr) (s t : State) (h : exec i s = .next t) :
    t = { s with
      v := t.v, mem := t.mem, display := t.display, i := t.i, dt := t.dt, st := t.st, pc := t.pc, sp := t.sp
      stack := t.stack, unmappedCount := t.unmappedCount, lastUnmapped := t.lastUnmapped, keyWait := t.keyWait } ∨
    ∃ c a, t = s.raise c a ∧ Raises i s c a := by
  cases i
  case callNnn nnn =>
    rcases execCallNnn_cases h with ⟨h1, rfl⟩ | ⟨h1, rfl⟩
    · left; rfl
    · right; exact ⟨_, _, rfl, .inr (.inl ⟨rfl, rfl, BitVec.eq_of_toNat_eq (by simpa using h1), _, rfl⟩)⟩
  case ret =>
    rcases execRet_cases h with ⟨h1, h2, rfl⟩ | ⟨h1, rfl⟩
    · left; rfl
    · right; exact ⟨_, _, rfl, .inr (.inr ⟨rfl, rfl, h1, rfl⟩)⟩
  case drwVxVyN x y n =>
    rcases withRange_cases h with ⟨h1, rfl⟩ | ⟨h1, h2, rfl⟩
    · left; rfl
    · right; exact ⟨_, _, rfl, .inl ⟨rfl, rfl, .inl ⟨x, y, n, rfl, (by rintro rfl; exact h1 rfl), h2⟩⟩⟩
  case ldBVx x =>
    rcases withRange_cases h with ⟨h1, rfl⟩ | ⟨h1, h2, rfl⟩
    · left; rfl
    · right; exact ⟨_, _, rfl, .inl ⟨rfl, rfl, .inr (.inl ⟨x, rfl, by omega⟩)⟩⟩
  case ldMemIVx x =>
    rcases withRange_cases h with ⟨h1, rfl⟩ | ⟨h1, h2, rfl⟩
    · left; rfl
    · right; exact ⟨_, _, rfl, .inl ⟨rfl, rfl, .inr (.inr (.inl ⟨x, rfl, by omega⟩))⟩⟩
  case ldVxMemI x =>
    rcases withRange_cases h with ⟨h1, rfl⟩ | ⟨h1, h2, rfl⟩
    · left
      obtain ⟨v', e⟩ : ∃ v', s.setRegs 0 (s.readBytes s.i.toNat (x.val + 1)) = { s with v := v' } :=
        ⟨_, State.setRegs_frame _ s 0⟩
      rw [e]
    · right; exact ⟨_, _, rfl, .inl ⟨rfl, rfl, .inr (.inr (.inr ⟨x, rfl, by omega⟩))⟩⟩
  case ldVxK x =>
    rcases execLdVxK_cases h with ⟨h1, rfl⟩ | ⟨k, h1, h2, h3, rfl⟩ <;> (left; rfl)
  case seVxNn => rcases skipIf_cases h with ⟨h1, rfl⟩ | ⟨h1, rfl⟩ <;> (left; rfl)
  case sneVxNn => rcases skipIf_cases h with ⟨h1, rfl⟩ | ⟨h1, rfl⟩ <;> (left; rfl)
  case seVxVy => rcases skipIf_cases h with ⟨h1, rfl⟩ | ⟨h1, rfl⟩ <;> (left; rfl)
  case sneVxVy => rcases skipIf_cases h with ⟨h1, rfl⟩ | ⟨h1, rfl⟩ <;> (left; rfl)
  case skpVx => rcases skipIf_cases h with ⟨h1, rfl⟩ | ⟨h1, rfl⟩ <;> (left; rfl)
  case sknpVx => rcases skipIf_cases h with ⟨h1, rfl⟩ | ⟨h1, rfl⟩ <;> (left; rfl)
  all_goals (left; cases h; rfl)

/-- Where a row of R230's table holds, the instruction raises that fault. -/
theorem exec_raises {i : Instr} {s : State} {c : FaultCause} {a : Word} (h : Raises i s c a) :
    exec i s = .next (s.raise c a) := by
  rcases h with ⟨rfl, rfl, h⟩ | ⟨rfl, rfl, h, nnn, rfl⟩ | ⟨rfl, rfl, h, rfl⟩
  · rcases h with ⟨x, y, n, rfl, h0, h⟩ | ⟨x, rfl, h⟩ | ⟨x, rfl, h⟩ | ⟨x, rfl, h⟩
    · refine withRange_neg (fun e => h0 (BitVec.eq_of_toNat_eq e)) h
    · exact withRange_neg (by decide) h
    · exact withRange_neg (by omega) (by omega)
    · exact withRange_neg (by omega) (by omega)
  · exact execCallNnn_overflow (by rw [h]; rfl)
  · exact execRet_underflow h

/-! ### The cycle (40_cycle.md R100) -/

/-- What an instruction tick can do: nothing while halted; FETCH_OOB; or one instruction, then the end of the tick. -/
theorem instrTick_cases {s t : State} {res : EventResult} (h : instrTick s = .next (t, res)) :
    (s.runState = .faulted ∧ t = s ∧ res = .halted) ∨
      (s.runState = .running ∧ fetch s = none ∧ t = s.enterFault s.pc .fetchOob s.pc ∧ res = .fault .fetchOob) ∨
      (s.runState = .running ∧ ∃ op s2, fetch s = some op ∧ exec (decodeWord op) (s.setPc (s.pc + 2)) = .next s2 ∧
        finishTick op (s.setPc (s.pc + 2)) s2 = (t, res)) := by
  unfold instrTick at h
  split at h
  · refine .inl ⟨‹_›, ?_⟩; simpa [eq_comm] using h
  · refine .inr ?_
    split at h
    · refine .inl ⟨‹_›, ‹_›, ?_⟩; simpa [eq_comm] using h
    · refine .inr ⟨‹_›, ?_⟩
      rename_i op hop
      simp only at h
      split at h
      · rename_i s2 hs2
        exact ⟨op, s2, hop, hs2, by simpa using h⟩
      · simp at h
      · simp at h

theorem instrTick_halted {s : State} (h : s.runState = .faulted) : instrTick s = .next (s, .halted) := by
  unfold instrTick; rw [h]

theorem instrTick_fetch_none {s : State} (h : s.runState = .running) (hf : fetch s = none) :
    instrTick s = .next (s.enterFault s.pc .fetchOob s.pc, .fault .fetchOob) := by
  unfold instrTick; rw [h, hf]

theorem instrTick_run {s s2 : State} {op : Word} (h : s.runState = .running) (hf : fetch s = some op)
    (he : exec (decodeWord op) (s.setPc (s.pc + 2)) = .next s2) :
    instrTick s = .next (finishTick op (s.setPc (s.pc + 2)) s2) := by
  unfold instrTick
  rw [h, hf]
  simp only [he]

theorem finishTick_faulted {op : Word} {s1 s2 : State} (h : s2.runState = .faulted) :
    finishTick op s1 s2 = (s2, .fault s2.faultCause) := by
  unfold finishTick; rw [h]

theorem finishTick_running {op : Word} {s1 s2 : State} (h : s2.runState = .running) :
    finishTick op s1 s2 =
      (if waitsForKey (decodeWord op) s1 then s2 else s2.setKeyWait false, tickResult op) := by
  unfold finishTick; rw [h]

/-- An instruction waits for a key exactly where it is FX0A and no key is pressed. -/
theorem waitsForKey_iff {i : Instr} {s : State} : waitsForKey i s = true ↔ (∃ x, i = .ldVxK x) ∧ s.keys = 0 := by
  cases i <;> simp [waitsForKey, State.lowestKey_none]

theorem fetch_none {s : State} : fetch s = none ↔ 0xFFF < s.pc.toNat + 1 := by
  unfold fetch; split <;> simp <;> omega

theorem fetch_some {s : State} {op : Word} (h : fetch s = some op) :
    s.pc.toNat + 1 ≤ 0xFFF ∧ op = bigEndian (s.read s.pc.toNat) (s.read (s.pc.toNat + 1)) := by
  unfold fetch at h
  split at h
  · simp at h
  · exact ⟨by omega, by simpa using h.symm⟩

/-! ### Events -/

/-- No event changes a parameter (00_scope.md R7). -/
theorem deliver_params {e : Event} {s t : State} {r : EventResult} (h : deliver e s = .next (t, r)) :
    t.params = s.params := by
  cases e with
  | reset => cases h; rfl
  | load rom => simp only [deliver, loadEvent] at h; split at h <;> cases h <;> rfl
  | instrTick d =>
    rcases instrTick_cases h with ⟨-, rfl, -⟩ | ⟨-, -, rfl, -⟩ | ⟨-, op, s2, -, hx, hf⟩
    · rfl
    · rfl
    · have hp : s2.params = s.params := by
        rcases exec_cases _ _ _ hx with e | ⟨c, a, rfl, -⟩
        · rw [e]; rfl
        · rfl
      have ht : t.params = s2.params := by
        have := congrArg Prod.fst hf
        simp only [finishTick] at this
        split at this
        · rw [← this]
        · rw [← this]; split <;> rfl
      exact ht.trans hp
  | timerTick => cases h; simp only [timerTickEvent]; split <;> rfl
  | keyDown k => cases h; rfl
  | keyUp k => cases h; rfl

/-- With an event pending, the step takes it. -/
theorem nextEvent_cons {s : State} {e : Event} {rest : List Event} (h : s.schedule = e :: rest) :
    nextEvent s = (e, { s with schedule := rest }) := by
  unfold nextEvent; rw [h]

/-- With none pending, the step takes the host's next one. -/
theorem nextEvent_nil {s : State} (h : s.schedule = []) :
    nextEvent s = (hostNext s.params.host s.draws, { s with draws := s.draws + 1 }) := by
  unfold nextEvent; rw [h]

/-- What a step can do: deliver the event that is due, and record its result. -/
theorem step_cases {s t : State} (h : step s = .next t) :
    ∃ u r, deliver (nextEvent s).1 (nextEvent s).2 = .next (u, r) ∧ t = { u with lastResult := r } := by
  unfold step stepEvent at h
  cases hd : deliver (nextEvent s).1 (nextEvent s).2 with
  | next p => rw [hd] at h; cases h; exact ⟨p.1, p.2, rfl, rfl⟩
  | fault f => rw [hd] at h; cases h
  | refused f => rw [hd] at h; cases h

/-! ### Runs -/

/-- A run of `n + 1` steps is one step, then `n` steps. -/
theorem run_succ (n : Nat) {s t : State} (h : step s = .next t) :
    Host.Core.run Sys2Proof.core (n + 1) s = Host.Core.run Sys2Proof.core n t := by
  have h' : Sys2Proof.core.step s = .next t := h
  simp only [Host.Core.run]
  rw [h']

end Sys2Proof.Machine
end

