-- ==== Sys2Proof/Laws/PerInstr.lean ====
section
/-! SUPPORT. The family RoundTrip: decoding the bytes of a well-formed instruction gives it back, one lemma per
constructor. -/

namespace Sys2Proof.Laws.RoundTrip

/-- Decoding the bytes of the instruction gives it back and leaves no byte. -/
def Statement (i : Instr) : Prop := i.wellFormed = true → decode (encode i) = .ok (i, [])

/-- The statement is one about the opcode word. -/
theorem of_word {i : Instr} (h : i.wellFormed = true → decodeWord (encodeWord i) = i) : Statement i := by
  intro hi
  simp [encode, wordBytes, decode, h hi]

theorem cls : Statement (.cls) := of_word fun _ => by decide

theorem ret : Statement (.ret) := of_word fun _ => by decide

theorem jpNnn (nnn : BitVec 12) : Statement (.jpNnn nnn) :=
  of_word fun _ => by simp [encodeWord, decodeWord]

theorem callNnn (nnn : BitVec 12) : Statement (.callNnn nnn) :=
  of_word fun _ => by simp [encodeWord, decodeWord]

theorem seVxNn (x : Reg) (nn : Byte) : Statement (.seVxNn x nn) :=
  of_word fun _ => by simp [encodeWord, decodeWord]

theorem sneVxNn (x : Reg) (nn : Byte) : Statement (.sneVxNn x nn) :=
  of_word fun _ => by simp [encodeWord, decodeWord]

theorem seVxVy (x y : Reg) : Statement (.seVxVy x y) :=
  of_word fun _ => by simp [encodeWord, decodeWord]

theorem ldVxNn (x : Reg) (nn : Byte) : Statement (.ldVxNn x nn) :=
  of_word fun _ => by simp [encodeWord, decodeWord]

theorem addVxNn (x : Reg) (nn : Byte) : Statement (.addVxNn x nn) :=
  of_word fun _ => by simp [encodeWord, decodeWord]

theorem ldVxVy (x y : Reg) : Statement (.ldVxVy x y) :=
  of_word fun _ => by simp [encodeWord, decodeWord, decodeAlu]

theorem orVxVy (x y : Reg) : Statement (.orVxVy x y) :=
  of_word fun _ => by simp [encodeWord, decodeWord, decodeAlu]

theorem andVxVy (x y : Reg) : Statement (.andVxVy x y) :=
  of_word fun _ => by simp [encodeWord, decodeWord, decodeAlu]

theorem xorVxVy (x y : Reg) : Statement (.xorVxVy x y) :=
  of_word fun _ => by simp [encodeWord, decodeWord, decodeAlu]

theorem addVxVy (x y : Reg) : Statement (.addVxVy x y) :=
  of_word fun _ => by simp [encodeWord, decodeWord, decodeAlu]

theorem subVxVy (x y : Reg) : Statement (.subVxVy x y) :=
  of_word fun _ => by simp [encodeWord, decodeWord, decodeAlu]

theorem shrVxVy (x y : Reg) : Statement (.shrVxVy x y) :=
  of_word fun _ => by simp [encodeWord, decodeWord, decodeAlu]

theorem subnVxVy (x y : Reg) : Statement (.subnVxVy x y) :=
  of_word fun _ => by simp [encodeWord, decodeWord, decodeAlu]

theorem shlVxVy (x y : Reg) : Statement (.shlVxVy x y) :=
  of_word fun _ => by simp [encodeWord, decodeWord, decodeAlu]

theorem sneVxVy (x y : Reg) : Statement (.sneVxVy x y) :=
  of_word fun _ => by simp [encodeWord, decodeWord]

theorem ldINnn (nnn : BitVec 12) : Statement (.ldINnn nnn) :=
  of_word fun _ => by simp [encodeWord, decodeWord]

theorem jpV0Nnn (nnn : BitVec 12) : Statement (.jpV0Nnn nnn) :=
  of_word fun _ => by simp [encodeWord, decodeWord]

theorem rndVxNn (x : Reg) (nn : Byte) : Statement (.rndVxNn x nn) :=
  of_word fun _ => by simp [encodeWord, decodeWord]

theorem drwVxVyN (x y : Reg) (n : BitVec 4) : Statement (.drwVxVyN x y n) :=
  of_word fun _ => by simp [encodeWord, decodeWord]

theorem skpVx (x : Reg) : Statement (.skpVx x) :=
  of_word fun _ => by simp [encodeWord, decodeWord, decodeKeys]

theorem sknpVx (x : Reg) : Statement (.sknpVx x) :=
  of_word fun _ => by simp [encodeWord, decodeWord, decodeKeys]

theorem ldVxDt (x : Reg) : Statement (.ldVxDt x) :=
  of_word fun _ => by simp [encodeWord, decodeWord, decodeMisc]

theorem ldVxK (x : Reg) : Statement (.ldVxK x) :=
  of_word fun _ => by simp [encodeWord, decodeWord, decodeMisc]

theorem ldDtVx (x : Reg) : Statement (.ldDtVx x) :=
  of_word fun _ => by simp [encodeWord, decodeWord, decodeMisc]

theorem ldStVx (x : Reg) : Statement (.ldStVx x) :=
  of_word fun _ => by simp [encodeWord, decodeWord, decodeMisc]

theorem addIVx (x : Reg) : Statement (.addIVx x) :=
  of_word fun _ => by simp [encodeWord, decodeWord, decodeMisc]

theorem ldFVx (x : Reg) : Statement (.ldFVx x) :=
  of_word fun _ => by simp [encodeWord, decodeWord, decodeMisc]

theorem ldBVx (x : Reg) : Statement (.ldBVx x) :=
  of_word fun _ => by simp [encodeWord, decodeWord, decodeMisc]

theorem ldMemIVx (x : Reg) : Statement (.ldMemIVx x) :=
  of_word fun _ => by simp [encodeWord, decodeWord, decodeMisc]

theorem ldVxMemI (x : Reg) : Statement (.ldVxMemI x) :=
  of_word fun _ => by simp [encodeWord, decodeWord, decodeMisc]

theorem unmapped (op : Word) : Statement (.unmapped op) :=
  of_word decodeWord_of_unmapped

end Sys2Proof.Laws.RoundTrip
end

