-- ==== Sys2Proof/Tests/Slice0.lean ====
section
/-! SUPPORT. The model's own tests: the checks of WellFormed, words written out from the spec's encodings, one-step
tests whose expected results are the vectors of 95_test_vectors.md (named by their ids), and for each statement with
hypotheses a concrete state and operands that meet them. -/

namespace Sys2Proof.Tests

open Sys2Proof Sys2Proof.Machine

/-! ### WellFormed -/

/-- The one check: `unmapped` carries an unmapped word; 0x6005 is 6XNN, so this term is ill formed. -/
theorem test_wellFormed_refuses_mapped_word : (Instr.unmapped 0x6005).wellFormed = false := by decide

/-- Neither 5XYN for any N nor 00E0 is an unmapped word. -/
theorem test_wellFormed_refuses_5XYN_and_cls :
    (Instr.unmapped 0x512D).wellFormed = false ∧ (Instr.unmapped 0x00E0).wellFormed = false := by decide

theorem test_wellFormed_accepts_unmapped : (Instr.unmapped 0x8128).wellFormed = true := by decide

/-! ### Decoding: words written out bit by bit from 30_encoding.md R71 and R74 -/

theorem test_decode_control :
    decodeWord 0b0000000011100000 = .cls ∧
    decodeWord 0b0000000011101110 = .ret ∧
    decodeWord 0b0001101010111100 = .jpNnn 0xABC ∧
    decodeWord 0b0010101010111100 = .callNnn 0xABC ∧
    decodeWord 0b0011001100000101 = .seVxNn 3 0x05 ∧
    decodeWord 0b0100001100000110 = .sneVxNn 3 0x06 ∧
    decodeWord 0b0101000100101101 = .seVxVy 1 2 ∧
    decodeWord 0b1001000100100001 = .sneVxVy 1 2 ∧
    decodeWord 0b1011001100000000 = .jpV0Nnn 0x300 := by decide

theorem test_decode_alu_immediate :
    decodeWord 0b0110101001011100 = .ldVxNn 10 0x5C ∧
    decodeWord 0b0111000111111111 = .addVxNn 1 0xFF ∧
    decodeWord 0b1100001100001111 = .rndVxNn 3 0x0F := by decide

theorem test_decode_alu_register :
    decodeWord 0b1000000100100000 = .ldVxVy 1 2 ∧
    decodeWord 0b1000000100100001 = .orVxVy 1 2 ∧
    decodeWord 0b1000000100100010 = .andVxVy 1 2 ∧
    decodeWord 0b1000000100100011 = .xorVxVy 1 2 ∧
    decodeWord 0b1000000100100100 = .addVxVy 1 2 ∧
    decodeWord 0b1000000100100101 = .subVxVy 1 2 ∧
    decodeWord 0b1000000100100110 = .shrVxVy 1 2 ∧
    decodeWord 0b1000000100100111 = .subnVxVy 1 2 ∧
    decodeWord 0b1000000100101110 = .shlVxVy 1 2 := by decide

theorem test_decode_index_and_memory :
    decodeWord 0b1010001100000000 = .ldINnn 0x300 ∧
    decodeWord 0b1111001000011110 = .addIVx 2 ∧
    decodeWord 0b1111010000101001 = .ldFVx 4 ∧
    decodeWord 0b1111000000110011 = .ldBVx 0 ∧
    decodeWord 0b1111001001010101 = .ldMemIVx 2 ∧
    decodeWord 0b1111001001100101 = .ldVxMemI 2 := by decide

theorem test_decode_display :
    decodeWord 0b1101000000010101 = .drwVxVyN 0 1 5 := by decide

theorem test_decode_timers_and_keys :
    decodeWord 0b1110000110011110 = .skpVx 1 ∧
    decodeWord 0b1110000110100001 = .sknpVx 1 ∧
    decodeWord 0b1111001100000111 = .ldVxDt 3 ∧
    decodeWord 0b1111001100001010 = .ldVxK 3 ∧
    decodeWord 0b1111001100010101 = .ldDtVx 3 ∧
    decodeWord 0b1111001000011000 = .ldStVx 2 := by decide

theorem test_decode_unmapped :
    decodeWord 0b1111000011111111 = .unmapped 0xF0FF := by decide


/-- 30_encoding.md R75, one word of each set: C2, C3 to C5, C6, and FXNN with NN = 0x00. -/
theorem test_decode_unmapped_sets :
    decodeWord 0x0123 = .unmapped 0x0123 ∧ decodeWord 0x0000 = .unmapped 0x0000 ∧
    decodeWord 0x812F = .unmapped 0x812F ∧ decodeWord 0x8128 = .unmapped 0x8128 ∧
    decodeWord 0xE1FF = .unmapped 0xE1FF ∧ decodeWord 0xF100 = .unmapped 0xF100 := by decide

/-- 20_memory.md R51, R54: the byte at the lower address is the high one; the bytes after it are left. -/
theorem test_decode_bytes : decode [0x60, 0x05, 0x70] = .ok (.ldVxNn 0 0x05, [0x70]) := by decide

theorem test_decode_truncated : decode [] = .error .truncated ∧ decode [0x60] = .error .truncated := by decide

theorem test_encode_bytes : encode (.ldVxNn 0 0x05) = [0x60, 0x05] ∧ encode (.subnVxVy 1 2) = [0x81, 0x27] := by decide

theorem test_decodeTableWord : decodeTableWord 16 0x8127 = some (.subnVxVy 1 2) := by decide

/-! ### One step -/

/-- The start of the vectors: the state after Reset with PC = 0x300. -/
def at300 : State := { State.reset with pc := 0x300 }

/-- `at300` with I at 0x400. -/
def atI : State := at300.setI 0x400

/-- `p` holds after one instruction tick that runs the word `op` at PC with the byte 0xA7 at `rand_in`. -/
def tick (op : Nat) (s : State) (p : State → Bool) : Bool :=
  match step { s.withFetchWord 16 op with schedule := [.instrTick (.given 0xA7)] } with
  | .next t => p t
  | .fault _ => false
  | .refused _ => false

/-- `p` holds after the event `e`. -/
def event (e : Event) (s : State) (p : State → Bool) : Bool :=
  match step { s with schedule := [e] } with
  | .next t => p t
  | .fault _ => false
  | .refused _ => false

/-- The tick raised this fault at 0x300 and left PC there. -/
def raised (c : FaultCause) (addr : Word) (t : State) : Bool :=
  t.runState == .faulted && t.faultCause == c && t.faultPc == 0x300 && t.faultAddr == addr && t.pc == 0x300 &&
    t.lastResult == .fault c

theorem test_C1_unmapped :
    tick 0xF0FF at300
      (fun t => t.pc == 0x302 && t.unmappedCount == 1 && t.lastUnmapped == 0xF0FF &&
        t.lastResult == .unmapped 0xF0FF) = true := by
  decide

theorem test_C11_count_wraps :
    tick 0xF0FF { at300 with unmappedCount := 0xFFFF }
      (fun t => t.unmappedCount == 0) = true := by
  decide

theorem test_B1_jp :
    tick 0x1ABC at300
      (fun t => t.pc == 0xABC && t.sp == 0 && t.lastResult == .executed 0x1ABC) = true := by
  decide

theorem test_B5_call_sixteenth :
    tick 0x2ABC { at300 with sp := 15 }
      (fun t => t.sp == 16 && t.stack[15] == 0x302 && t.pc == 0xABC) = true := by
  decide

theorem test_B6_call_overflow :
    tick 0x2ABC { at300 with sp := 16 }
      (fun t => raised .stackOverflow 16 t && t.sp == 16) = true := by
  decide

theorem test_B7_ret :
    tick 0x00EE { at300 with sp := 1, stack := at300.stack.set 0 0x202 }
      (fun t => t.sp == 0 && t.pc == 0x202 && t.stack[0] == 0x202) = true := by
  decide

theorem test_B8_ret_underflow :
    tick 0x00EE at300
      (fun t => raised .stackUnderflow 0 t && t.sp == 0) = true := by
  decide

theorem test_B10_jp_v0 : tick 0xBFFF (at300.setReg 0 0xFF) (fun t => t.pc == 0x10FE) = true := by decide

theorem test_B12_se_imm : tick 0x3305 (at300.setReg 3 0x05) (fun t => t.pc == 0x304) = true := by decide

theorem test_B13_se_imm_not : tick 0x3306 (at300.setReg 3 0x05) (fun t => t.pc == 0x302) = true := by decide

theorem test_B14_sne_imm : tick 0x4306 (at300.setReg 3 0x05) (fun t => t.pc == 0x304) = true := by decide

theorem test_B15_sne_imm_not : tick 0x4305 (at300.setReg 3 0x05) (fun t => t.pc == 0x302) = true := by decide

theorem test_B17_se_reg_low_nibble :
    tick 0x5121 ((at300.setReg 1 0x03).setReg 2 0x03)
      (fun t => t.pc == 0x304) = true := by
  decide

theorem test_B18_se_reg_not :
    tick 0x5120 ((at300.setReg 1 0x40).setReg 2 0x41)
      (fun t => t.pc == 0x302) = true := by
  decide

theorem test_B19_sne_reg :
    tick 0x9120 ((at300.setReg 1 0x40).setReg 2 0x41)
      (fun t => t.pc == 0x304) = true := by
  decide

theorem test_B20_sne_reg_not :
    tick 0x9121 ((at300.setReg 1 0x03).setReg 2 0x03)
      (fun t => t.pc == 0x302) = true := by
  decide

theorem test_A1_ld_imm : tick 0x6A5C at300 (fun t => t.reg 10 == 0x5C && t.pc == 0x302) = true := by decide

theorem test_A3_add_imm_no_carry_flag :
    tick 0x71FF ((at300.setReg 1 0x02).setReg 15 0x07)
      (fun t => t.reg 1 == 0x01 && t.reg 15 == 0x07) = true := by
  decide

theorem test_A4_add_imm_vf : tick 0x7FFF (at300.setReg 15 0x01) (fun t => t.reg 15 == 0x00) = true := by decide

theorem test_A5_ld_reg : tick 0x8120 (at300.setReg 2 0x7A) (fun t => t.reg 1 == 0x7A) = true := by decide

theorem test_A6_or :
    tick 0x8121 ((at300.setReg 1 0xF0).setReg 2 0x0F)
      (fun t => t.reg 1 == 0xFF && t.reg 2 == 0x0F) = true := by
  decide

theorem test_A7_and :
    tick 0x8122 ((at300.setReg 1 0xF0).setReg 2 0x3C)
      (fun t => t.reg 1 == 0x30 && t.reg 2 == 0x3C) = true := by
  decide

theorem test_A8_xor :
    tick 0x8123 (((at300.setReg 1 0xF0).setReg 2 0x3C).setReg 15 0x55)
      (fun t => t.reg 1 == 0xCC && t.reg 15 == 0x55) = true := by
  decide

theorem test_A13_add_carry :
    tick 0x8124 ((at300.setReg 1 0xFF).setReg 2 0xFF)
      (fun t => t.reg 1 == 0xFE && t.reg 15 == 1) = true := by
  decide

theorem test_A18_add_vf_operand :
    tick 0x81F4 ((at300.setReg 1 0xFF).setReg 15 0x01)
      (fun t => t.reg 15 == 1 && t.reg 1 == 0x00) = true := by
  decide

theorem test_A22_sub_borrow :
    tick 0x8125 ((at300.setReg 1 0x03).setReg 2 0x05)
      (fun t => t.reg 1 == 0xFE && t.reg 15 == 0 && t.reg 2 == 0x05) = true := by
  decide

theorem test_A24_sub_vf_dest :
    tick 0x8F25 ((at300.setReg 15 0x10).setReg 2 0x03)
      (fun t => t.reg 15 == 0xFE) = true := by
  decide

theorem test_A29_shr_ignores_vy :
    tick 0x8126 ((at300.setReg 1 0x04).setReg 2 0xFF)
      (fun t => t.reg 1 == 0x02 && t.reg 15 == 0 && t.reg 2 == 0xFF) = true := by
  decide

theorem test_A30_shr_vf : tick 0x8F06 (at300.setReg 15 0xFF) (fun t => t.reg 15 == 0x00) = true := by decide

theorem test_A31_subn_writes_vy :
    tick 0x8127 ((at300.setReg 1 0x03).setReg 2 0x05)
      (fun t => t.reg 2 == 0x02 && t.reg 15 == 1 && t.reg 1 == 0x03) = true := by
  decide

theorem test_A35_subn_vf_source :
    tick 0x8F27 ((at300.setReg 15 0x03).setReg 2 0x10)
      (fun t => t.reg 15 == 1 && t.reg 2 == 0x0F) = true := by
  decide

/-- `s` with the parameter SUBN_DEST at its other value (42_alu.md R153). -/
def destX (s : State) : State := { s with params := { s.params with subnDest := .x } }

theorem test_R153_subn_destination_x :
    tick 0x8127 (destX ((at300.setReg 1 0x03).setReg 2 0x05))
      (fun t => t.reg 1 == 0x02 && t.reg 15 == 1 && t.reg 2 == 0x05) = true := by
  decide

theorem test_A37_shl :
    tick 0x810E (at300.setReg 1 0x81)
      (fun t => t.reg 1 == 0x02 && t.reg 15 == 1) = true := by
  decide

theorem test_A39_shl_vf : tick 0x8F0E (at300.setReg 15 0x80) (fun t => t.reg 15 == 0x02) = true := by decide

theorem test_A41_rnd : tick 0xC30F at300 (fun t => t.reg 3 == 0x07) = true := by decide

theorem test_A42_rnd_mask_zero : tick 0xC300 (at300.setReg 3 0x09) (fun t => t.reg 3 == 0x00) = true := by decide

theorem test_M1_ld_i : tick 0xA300 at300 (fun t => t.i == 0x300) = true := by decide

theorem test_M4_add_i_wraps :
    tick 0xF21E ((at300.setI 0xFFFF).setReg 2 0x02)
      (fun t => t.i == 0x0001 && t.reg 15 == 0) = true := by
  decide

theorem test_M7_ld_f : tick 0xF029 (at300.setReg 0 0xFF) (fun t => t.i == 0x4FB) = true := by decide

theorem test_M8_bcd :
    tick 0xF033 ((at300.setI 0xFFD).setReg 0 0xFF)
      (fun t => t.readBytes 0xFFD 3 == [0x02, 0x05, 0x05] && t.i == 0xFFD) = true := by
  decide

theorem test_M10_bcd_out_of_range :
    tick 0xF033 ((at300.setI 0xFFE).setReg 0 0x01)
      (fun t => raised .memOob 0x1000 t && t.readBytes 0xFFE 2 == [0x00, 0x00]) = true := by
  decide

theorem test_M11_store :
    tick 0xF255 (((atI.setReg 0 0x11).setReg 1 0x22).setReg 2 0x33)
      (fun t => t.readBytes 0x400 4 == [0x11, 0x22, 0x33, 0x00] && t.i == 0x400) = true := by
  decide

theorem test_M13_store_out_of_range :
    tick 0xFF55 (at300.setI 0xFF1)
      (fun t => raised .memOob 0x1000 t) = true := by
  decide

theorem test_M16_load_font :
    tick 0xF465 at300
      (fun t => t.v.toList.take 6 == [0xF0, 0x90, 0x90, 0x90, 0xF0, 0x00]) = true := by
  decide

theorem test_M14_load_out_of_range :
    tick 0xF065 (at300.setI 0x1000)
      (fun t => raised .memOob 0x1000 t && t.reg 0 == 0) = true := by
  decide

/-- The start of D1: a one-row sprite at (62, 1). -/
def sprite1 : State := { ((at300.setI 0x20C).setReg 0 62).setReg 1 1 with mem := [(0x20C, 0xF0)] }

theorem test_D1_draw_wraps_right :
    tick 0xD011 sprite1
      (fun t => t.display[1] == 0xC000000000000003 && t.display[0] == 0 && t.reg 15 == 0) = true := by
  decide

theorem test_D2_draw_again_collides :
    tick 0xD011 (sprite1.setDisplay (at300.display.set 1 0xC000000000000003))
      (fun t => t.display == Display.clear && t.reg 15 == 1) = true := by
  decide

theorem test_D10_cls :
    tick 0x00E0 { at300.setReg 15 7 with display := at300.display.set 31 0xFFFF }
      (fun t => t.display == Display.clear && t.reg 15 == 7) = true := by
  decide

theorem test_T1_ld_vx_dt : tick 0xF307 (at300.setDt 0x3C) (fun t => t.reg 3 == 0x3C) = true := by decide

theorem test_T2_ld_dt_vx : tick 0xF315 (at300.setReg 3 0x3C) (fun t => t.dt == 0x3C) = true := by decide

theorem test_T3_ld_st_vx :
    tick 0xF218 (at300.setReg 2 0x1E)
      (fun t => t.st == 0x1E && t.soundActive) = true := by
  decide

theorem test_T8_skp :
    tick 0xE19E { at300.setReg 1 5 with keys := 0x0020 }
      (fun t => t.pc == 0x304) = true := by
  decide

theorem test_T10_skp_code_above_15 :
    tick 0xE19E { at300.setReg 1 0x15 with keys := 0x0020 }
      (fun t => t.pc == 0x302) = true := by
  decide

theorem test_T9_sknp :
    tick 0xE1A1 { at300.setReg 1 5 with keys := 0x0020 }
      (fun t => t.pc == 0x302) = true := by
  decide

theorem test_T11_sknp_code_above_15 :
    tick 0xE1A1 { at300.setReg 1 0x15 with keys := 0x0020 }
      (fun t => t.pc == 0x304) = true := by
  decide

theorem test_T12_wait_for_key :
    tick 0xF30A (at300.setReg 3 0x09)
      (fun t => t.pc == 0x300 && t.keyWait && t.reg 3 == 0x09 && t.lastResult == .executed 0xF30A) = true := by
  decide

theorem test_T13_lowest_key :
    tick 0xF30A { at300 with keys := 0x0210, keyWait := true }
      (fun t => t.reg 3 == 0x04 && t.pc == 0x302 && !t.keyWait) = true := by
  decide

/-! ### Events -/

theorem test_C7_fetch_out_of_range :
    event (.instrTick (.given 0)) { at300 with pc := 0x1000 }
      (fun t => t.faultCause == .fetchOob && t.faultPc == 0x1000 && t.faultAddr == 0x1000 &&
        t.pc == 0x1000) = true := by
  decide

theorem test_C9_last_fetch :
    event (.instrTick (.given 0)) { at300 with pc := 0xFFE, mem := [(0xFFE, 0x60), (0xFFF, 0x05)] }
      (fun t => t.reg 0 == 5 && t.pc == 0x1000) = true := by
  decide

theorem test_C10_halted :
    event (.instrTick (.given 0)) { at300 with runState := .faulted }
      (fun t => t.lastResult == .halted && t.pc == 0x300) = true := by
  decide

theorem test_T5_timer_tick :
    event .timerTick { at300 with dt := 1, st := 2 }
      (fun t => t.dt == 0 && t.st == 1 && t.lastResult == .frame Display.clear) = true := by
  decide

theorem test_T7_timer_tick_frozen :
    event .timerTick { at300 with dt := 5, runState := .faulted }
      (fun t => t.dt == 5) = true := by
  decide

theorem test_T14_key_down :
    event (.keyDown 2) { at300 with keys := 0x0004 }
      (fun t => t.keys == 0x0004) = true := by
  decide

theorem test_T15_key_up :
    event (.keyUp 2) { at300 with keys := 0x0014 }
      (fun t => t.keys == 0x0010) = true := by
  decide

theorem test_S3_load :
    event (.load [0x60, 0x05, 0x70, 0x03]) State.reset
      (fun t => t.readBytes 0x200 5 == [0x60, 0x05, 0x70, 0x03, 0x00] && t.lastResult == .loaded) = true := by
  decide

theorem test_T17_load_rejected : loadEvent (List.replicate 3585 1) State.reset =
    ({ State.reset with loadStatus := .rejected }, .rejected) := by
  rw [loadEvent, if_pos (by rw [List.length_replicate]; decide)]

theorem test_R260_reset :
    event .reset { at300 with sp := 3, keys := 1, runState := .faulted, mem := [(0x200, 1)] }
      (fun t => t.pc == 0x200 && t.sp == 0 && t.keys == 0 && t.runState == .running && t.mem == []) = true := by
  decide

/-- `s` with a host that ticks when no event is pending. -/
def ticking (s : State) : State := { s with params := { s.params with host := .ticks } }

/-- 70_reset_and_hazards.md R262: with nothing placed, an instruction tick from reset runs the word 0x0000, unmapped. -/
theorem test_first_tick_from_reset : (match step (ticking State.reset) with
    | .next t => t.pc == 0x202 && t.lastResult == .unmapped 0x0000
    | .fault _ => false
    | .refused _ => false) = true := by decide

/-- `withFetchWord` places the word where the next step fetches it. -/
theorem test_withFetchWord : fetch (State.reset.withFetchWord 16 0x8127) = some 0x8127 := by decide

/-! ### Witnesses: for each statement with hypotheses, states and operands that meet them -/

theorem witness_DecodeInvertsEncode :
    (Instr.unmapped 0x0000).wellFormed = true ∧ (Instr.drwVxVyN 15 15 15).wellFormed = true := by decide

theorem witness_DecodeFollowsOpcodeMap :
    opcodeMap[0]? = some ⟨0xFFFF, 0x00E0⟩ ∧ opcodeMap[33]? = some ⟨0xF0FF, 0xF065⟩ ∧
    OpcodeRow.hits ⟨0xFFFF, 0x00E0⟩ 0x00E0 = true ∧ OpcodeRow.hits ⟨0xF0FF, 0xF065⟩ 0xFF65 = true ∧
    (∀ r ∈ opcodeMap, r.hits 0x00E1 = false) := by decide

theorem witness_DecodedWordEncodesBack :
    (fieldT 0x512D = 5 ∧ encodeWord (decodeWord 0x512D) = 0x5120) ∧
    (fieldT 0x9FFF = 9 ∧ encodeWord (decodeWord 0x9FFF) = 0x9FF0) ∧ encodeWord (decodeWord 0xA00F) = 0xA00F :=
  by decide

/-- `at300` with the bytes 00 EE at PC: RET, which raises with an empty stack and returns with one entry. -/
def atRet : State := { at300 with mem := [(0x301, 0xEE)] }

/-- The schedule is empty, the host ticks and the instruction raises. -/
theorem witness_StepRunsDecodedInstruction_faults :
    ∃ u t, (ticking atRet).runState = .running ∧ (ticking atRet).pc.toNat + 1 ≤ 0xFFF ∧
      (ticking atRet).read (ticking atRet).pc.toNat = 0x00 ∧
      (ticking atRet).read ((ticking atRet).pc.toNat + 1) = 0xEE ∧ decode [0x00, 0xEE] = .ok (.ret, []) ∧
      (ticking atRet).schedule = [] ∧ (ticking atRet).params.host = .ticks ∧
      u = { ticking atRet with pc := atRet.pc + 2, randIn := .free atRet.draws, draws := atRet.draws + 1 } ∧
      exec .ret u = .next t ∧ t.runState = .faulted :=
  ⟨_, _, by decide, by decide, by decide, by decide, by decide, by decide, by decide, rfl, rfl, by decide⟩

/-- The free event (`Config.hostEvent`, of which nothing is known) apart, the third case. -/
theorem witness_StepRunsDecodedInstruction_unconstrained :
    ∃ t, atRet.runState = .running ∧ atRet.schedule = [] ∧
      atRet.params.host = .unconstrained ∧
      exec .ret { atRet with pc := atRet.pc + 2, randIn := .given 1, draws := atRet.draws + 1 } = .next t :=
  ⟨_, by decide, by decide, by decide, rfl⟩

/-- `at300` with FX0A at PC and one tick pending. -/
def atWait : State :=
  { at300 with mem := [(0x300, 0xF3), (0x301, 0x0A)], schedule := [.instrTick (.given 1), .timerTick] }

/-- A tick is pending and the instruction is an FX0A that waits. -/
theorem witness_StepRunsDecodedInstruction_runs :
    ∃ u t, atWait.runState = .running ∧ atWait.pc.toNat + 1 ≤ 0xFFF ∧ atWait.read atWait.pc.toNat = 0xF3 ∧
      atWait.read (atWait.pc.toNat + 1) = 0x0A ∧ decode [0xF3, 0x0A] = .ok (.ldVxK 3, []) ∧
      atWait.schedule = .instrTick (.given 1) :: [.timerTick] ∧
      u = { atWait with pc := atWait.pc + 2, randIn := .given 1, schedule := [.timerTick] } ∧
      exec (.ldVxK 3) u = .next t ∧ t.runState = .running ∧ u.keys = 0 :=
  ⟨_, _, by decide, by decide, by decide, by decide, by decide, by decide, rfl, rfl, by decide, by decide⟩

theorem witness_StepDeliversOldestEvent :
    ∃ (s t : State) (r : EventResult), s.schedule = Event.keyDown 3 :: [.reset] ∧
      deliver (.keyDown 3) { s with schedule := [.reset] } = .next (t, r) :=
  ⟨{ at300 with schedule := [.keyDown 3, .reset] }, _, _, rfl, rfl⟩

/-- Whatever the free event is: a faulted state answers each of the six. -/
theorem witness_StepDeliversOldestEvent_unconstrained :
    ∃ (s t : State) (r : EventResult), s.schedule = [] ∧ s.params.host = .unconstrained ∧
      deliver (Config.hostEvent s.draws) { s with draws := s.draws + 1 } = .next (t, r) := by
  cases h : Config.hostEvent 0 <;>
    exact ⟨{ at300 with runState := .faulted }, _, _, rfl, rfl, by
      rw [show ({ at300 with runState := .faulted } : State).draws = 0 from rfl, h]; rfl⟩

theorem witness_ParametersNeverChange :
    ∃ t, step { destX at300 with schedule := [.reset] } = .next t := ⟨_, rfl⟩

theorem witness_FetchOutOfRangeFaults :
    (∃ s : State, s.runState = .running ∧ s.pc = 0xFFF ∧ 0xFFF < s.pc.toNat + 1) ∧ ∃ s : State, s.pc = 0xFFE :=
  ⟨⟨{ at300 with pc := 0xFFF }, by decide, by decide, by decide⟩, ⟨{ at300 with pc := 0xFFE }, by decide⟩⟩

/-- A legal faulted state: STACK_OVERFLOW at 0x300. -/
def faulted300 : State :=
  { at300 with
    sp := 16, runState := .faulted, faultCause := .stackOverflow, faultPc := 0x300, faultAddr := 16
    schedule := [.timerTick, .keyUp 1] }

/-- For FaultedStateEvents and FaultedUntilReset. -/
theorem witness_faulted :
    faulted300.runState = .faulted ∧ Event.reset ∉ faulted300.schedule ∧ faulted300.params.host = .unconstrained ∧
    2 ≤ faulted300.schedule.length ∧ (ticking faulted300).params.host ≠ .unconstrained := by decide

theorem witness_FaultedStateEvents :
    ∃ t u r q, Event.load [1] ≠ .reset ∧ deliver (.load [1]) faulted300 = .next (t, r) ∧
      deliver .reset faulted300 = .next (u, q) := ⟨_, _, _, _, by decide, rfl, rfl⟩

theorem witness_KeyWaitMirrorsWaiting :
    (∃ t r, deliver (.instrTick (.given 0)) atWait = .next (t, r) ∧ t.runState = .running ∧ t.keyWait = true) ∧
    (∃ t r, deliver (.instrTick (.given 0)) { atWait with keys := 2 } = .next (t, r) ∧ t.runState = .running ∧
      t.keyWait = false) ∧
    (∃ t r, deliver (.instrTick (.given 0)) { atRet with keyWait := true } = .next (t, r) ∧ t.runState = .faulted ∧
      t.keyWait = true) :=
  ⟨⟨_, _, rfl, by decide, by decide⟩, ⟨_, _, rfl, by decide, by decide⟩, ⟨_, _, rfl, by decide, by decide⟩⟩

theorem witness_UnmappedWordIsCounted :
    unmappedWord 0x0000 = true ∧ unmappedWord 0xFFFF = true := by decide

theorem witness_OnlyRandomReadsRandIn :
    (∀ x nn, Instr.ret ≠ .rndVxNn x nn) ∧ ∃ t, exec .ret { at300 with sp := 16 } = .next t :=
  ⟨fun _ _ => by simp, _, rfl⟩

theorem witness_CallPushesReturnAddress :
    ({ at300 with sp := 0 } : State).sp.toNat < 16 ∧ ({ at300 with sp := 15 } : State).sp.toNat < 16 ∧
    ({ at300 with sp := 16 } : State).sp = 16 := by decide

theorem witness_ReturnPopsReturnAddress :
    (0 < ({ at300 with sp := 1 } : State).sp.toNat ∧ ({ at300 with sp := 1 } : State).sp.toNat ≤ 16) ∧
    (0 < ({ at300 with sp := 16 } : State).sp.toNat ∧ ({ at300 with sp := 16 } : State).sp.toNat ≤ 16) ∧ at300.sp = 0 :=
  by decide

theorem witness_StackPointerOutOfRangeStops :
    16 < ({ at300 with sp := 17 } : State).sp.toNat ∧ 16 < ({ at300 with sp := 255 } : State).sp.toNat :=
  by decide

theorem witness_CallThenReturnRestores :
    ({ at300 with sp := 15 } : State).sp.toNat < 16 ∧ ∃ t, exec (.callNnn 0xFFF) { at300 with sp := 15 } = .next t :=
  ⟨by decide, _, rfl⟩

/-- For the three statements of 8XY7; flag_cases has their operands. -/
theorem witness_ReverseSubtract :
    at300.params.subnDest = .y ∧ (destX at300).params.subnDest = .x := ⟨rfl, rfl⟩

theorem witness_ImmediateSkips :
    at300.reg 15 = 0x00 ∧ at300.reg 15 ≠ 0xFF := by decide

theorem witness_RegisterSkips :
    at300.reg 0 = at300.reg 15 ∧ (at300.setReg 15 1).reg 0 ≠ (at300.setReg 15 1).reg 15 := by decide

/-- For the cases of X and Y against F in 8XY4 to 8XY7 and 8XYE, with the carry and the comparison at their boundaries. -/
theorem witness_flag_cases :
    ((1 : Reg) ≠ vf ∧ (2 : Reg) ≠ vf) ∧ ((15 : Reg) = vf ∧ (2 : Reg) ≠ vf) ∧ ((1 : Reg) ≠ vf ∧ (15 : Reg) = vf) ∧
    ((0 : Reg) ≠ (1 : Reg) ∧ (0 : Reg) ≠ vf) ∧
    (if ((at300.setReg 1 255).setReg 2 255 |>.reg 1).toNat > ((at300.setReg 1 255).setReg 2 255 |>.reg 2).toNat then 1
      else 0) = 0 ∧
    (if ((at300.setReg 1 255).setReg 2 254 |>.reg 1).toNat > ((at300.setReg 1 255).setReg 2 254 |>.reg 2).toNat then 1
      else 0) = 1 ∧
    (if ((at300.setReg 1 255).setReg 2 1 |>.reg 1).toNat + ((at300.setReg 1 255).setReg 2 1 |>.reg 2).toNat > 255 then 1
      else 0) = 1 ∧
    (if ((at300.setReg 1 254).setReg 2 1 |>.reg 1).toNat + ((at300.setReg 1 254).setReg 2 1 |>.reg 2).toNat > 255 then 1
      else 0) = 0 := by decide

theorem witness_BcdWritesThreeDigits :
    at300.memWf ∧ (at300.setI 0xFFD).i.toNat + 2 ≤ 0xFFF ∧ 0xFFF < (at300.setI 0xFFE).i.toNat + 2 ∧
    0xFFF < (at300.setI 0xFFFF).i.toNat + 2 := by decide

/-- For StoreWritesRegisters and LoadReadsRegisters. -/
theorem witness_StoreAndLoadRegisters :
    at300.memWf ∧ (at300.setI 0xFF0).i.toNat + (15 : Reg).val ≤ 0xFFF ∧ 0xFFF < (at300.setI 0xFF1).i.toNat + (15 : Reg).val ∧
    (at300.setI 0xFFF).i.toNat + (0 : Reg).val ≤ 0xFFF ∧ 0xFFF < (at300.setI 0x1000).i.toNat + (0 : Reg).val ∧
    (15 : Reg) ≤ 15 ∧ (0 : Reg) < 1 := by decide

theorem witness_StoreThenLoadReproduces :
    at300.memWf ∧ (at300.setI 0xFF0).i.toNat + (15 : Reg).val ≤ 0xFFF ∧ ∃ t, exec (.ldMemIVx 15) (at300.setI 0xFF0) = .next t :=
  ⟨by decide, by decide, _, rfl⟩

theorem witness_StoredBytesAreFetched :
    at300.memWf ∧ at300.i.toNat + (1 : Reg).val ≤ 0xFFF ∧ (0 : Reg).val < (1 : Reg).val ∧ ∃ t, exec (.ldMemIVx 1) at300 = .next t :=
  ⟨by decide, by decide, by decide, _, rfl⟩

theorem witness_DrawCompositesSprite :
    ((0 : BitVec 4) = 0 ∨ (at300.setI 0x5000).i.toNat + (0 : BitVec 4).toNat - 1 ≤ 0xFFF) ∧
    ((5 : BitVec 4) = 0 ∨ (at300.setI 0xFFB).i.toNat + (5 : BitVec 4).toNat - 1 ≤ 0xFFF) ∧
    ((62 : Byte).toNat % 64 = 62 ∧ (1 : Byte).toNat % 32 = 1 ∧ Fin.ofNat 64 (62 + 7) = (5 : Fin 64)) ∧
    (∀ r b, r < 1 → b < 8 → ¬ ((6 : Fin 64) = Fin.ofNat 64 (62 + b) ∧ (1 : Fin 32) = Fin.ofNat 32 (1 + r))) :=
  by
  refine ⟨by decide, by decide, by decide, fun r b hr hb => ?_⟩
  simp only [Fin.ext_iff, Fin.ofNat]
  omega

theorem witness_DrawTwiceRestores :
    (0 : Reg) ≠ vf ∧ (1 : Reg) ≠ vf ∧ ((5 : BitVec 4) = 0 ∨ at300.i.toNat + (5 : BitVec 4).toNat - 1 ≤ 0xFFF) ∧
    ∃ t, exec (.drwVxVyN 0 1 5) at300 = .next t := ⟨by decide, by decide, by decide, _, rfl⟩

theorem witness_SoundLastsForTimerTicks :
    at300.runState = .running ∧ 0 < ((at300.setReg 2 1).reg 2).toNat ∧ ¬ 1 < ((at300.setReg 2 1).reg 2).toNat :=
  by decide

/-- `at300` with key F pressed and register 1 holding `code`. -/
def keyF (code : Byte) : State := { at300.setReg 1 code with keys := 0x8000 }

theorem witness_KeySkips :
    (((keyF 15).reg 1).toNat ≤ 0xF ∧ (keyF 15).keys.getLsbD ((keyF 15).reg 1).toNat = true) ∧
    ¬ (((keyF 14).reg 1).toNat ≤ 0xF ∧ (keyF 14).keys.getLsbD ((keyF 14).reg 1).toNat = true) ∧
    ¬ (((keyF 16).reg 1).toNat ≤ 0xF ∧ (keyF 16).keys.getLsbD ((keyF 16).reg 1).toNat = true) := by decide

theorem witness_WaitForKeyTakesLowest :
    at300.keys = 0 ∧ (keyF 0).keys ≠ 0 := by decide

theorem witness_BusyWaitChangesNothing :
    ∃ s : State, s.runState = .running ∧ s.schedule = [] ∧ s.params.host = .ticks ∧ s.keys = 0 ∧ fetch s = some 0xF30A ∧
      decodeWord 0xF30A = .ldVxK 3 :=
  ⟨ticking { atWait with schedule := [] }, by decide, by decide, by decide, by decide, by decide, by decide⟩

theorem witness_OutOfRangeAccessFaults :
    ((1 : BitVec 4) ≠ 0 ∧ 0xFFF < (at300.setI 0x1000).i.toNat + (1 : BitVec 4).toNat - 1) ∧
    0xFFF < (at300.setI 0xFFE).i.toNat + 3 - 1 ∧ 0xFFF < (at300.setI 0xFF1).i.toNat + ((15 : Reg).val + 1) - 1 ∧
    at300.runState = .running ∧ 0xFFF < ({ at300 with pc := 0xFFF } : State).pc.toNat + 1 := by decide

theorem witness_FaultsArePrecise :
    ∃ t, deliver (.instrTick (.given 0)) atRet = .next (t, .fault .stackUnderflow) := ⟨_, rfl⟩

theorem witness_FaultRecordFollowsTable :
    at300.runState = .running ∧ at300.faultCause = .none ∧ atRet.runState = .running ∧ fetch atRet = some 0x00EE ∧
    (∃ t, deliver (.instrTick (.given 0)) { at300 with pc := 0xFFF } = .next (t, .fault .fetchOob)) ∧
    (∃ t, deliver (.instrTick (.given 0)) { at300 with i := 0xFFE, mem := [(0x300, 0xF0), (0x301, 0x33)] } =
      .next (t, .fault .memOob)) ∧
    (∃ t, deliver (.instrTick (.given 0)) { at300 with sp := 16, mem := [(0x300, 0x2A)] } =
      .next (t, .fault .stackOverflow)) ∧
    ∃ t, deliver (.instrTick (.given 0)) atRet = .next (t, .fault .stackUnderflow) :=
  ⟨by decide, by decide, by decide, by decide, ⟨_, rfl⟩, ⟨_, rfl⟩, ⟨_, rfl⟩, ⟨_, rfl⟩⟩

theorem witness_OnlyListedInstructionsRaise :
    (Instr.ldVxK 0).mayRaise = false ∧ ∃ t, exec (.ldVxK 0) at300 = .next t := ⟨by decide, _, rfl⟩

theorem witness_TimerTickCountsDown :
    at300.runState = .running ∧ faulted300.runState = .faulted := by decide

theorem witness_LoadCopiesOrRejects :
    at300.memWf ∧ (List.replicate 3584 (1 : Byte)).length ≤ 0xE00 ∧ 0xE00 < (List.replicate 3585 (1 : Byte)).length :=
  ⟨by decide, by rw [List.length_replicate], by rw [List.length_replicate]; decide⟩

theorem witness_ResetSetsEveryValue :
    (0 < 0x50 ∧ 0x4F < 0x50) ∧ (0x50 ≤ 0x50 ∧ 0x50 ≤ 0xFFF) ∧ (0x50 ≤ 0xFFF ∧ 0xFFF ≤ 0xFFF) := by decide

theorem witness_ParkedTickChangesNothing :
    ({ at300 with mem := [(0x300, 0x13)] } : State).isParked ∧ ({ at300 with mem := [(0x300, 0x13)] } : State).keyWait = false :=
  ⟨⟨by decide, 0x1300, 0x300, by decide, by decide, by decide⟩, by decide⟩

theorem witness_RegisterFrame :
    (∃ t, exec (.subnVxVy 1 2) at300 = .next t) ∧ (Instr.subnVxVy 1 2).mayWriteReg at300.params.subnDest 1 = false ∧
    (Instr.subnVxVy 1 2).mayWriteReg at300.params.subnDest 2 = true ∧ (Instr.ldVxMemI 3).mayWriteReg .y 4 = false ∧
    (Instr.subnVxVy 1 2).mayWriteReg .x 2 = false := ⟨⟨_, rfl⟩, by decide, by decide, by decide, by decide⟩

theorem witness_MemoryFrame :
    (∃ t, exec (.ldMemIVx 2) (at300.setI 0x400) = .next t) ∧ 0x3FF < (at300.setI 0x400).i.toNat ∧
    (at300.setI 0x400).i.toNat + (Instr.ldMemIVx 2).storeCount ≤ 0x403 ∧ at300.i.toNat + Instr.cls.storeCount ≤ 0 :=
  ⟨⟨_, rfl⟩, by decide, by decide, by decide⟩

theorem witness_OtherStateFrame :
    (∃ t, exec .cls at300 = .next t) ∧ (∀ nnn, Instr.cls ≠ .callNnn nnn) ∧ Instr.cls ≠ .ret ∧
    ∃ t, exec .ret at300 = .next t := ⟨⟨_, rfl⟩, fun _ => by simp, by decide, _, rfl⟩

/-- For StepKeepsLegal and LegalStepsNeverStop: a running state. -/
theorem witness_legal_running :
    ({ at300 with mem := [(0x300, 0xF3), (0x301, 0x0A)], sp := 1 } : State).Inv :=
  ⟨by decide, by decide, by decide, by decide, ⟨by decide, by decide, by decide⟩, by decide⟩

/-- For StepKeepsLegal and LegalStepsNeverStop: a faulted state with a pending TimerTick. -/
theorem witness_legal_faulted :
    faulted300.Inv :=
  ⟨by decide, by decide, by decide, by decide, ⟨by decide, by decide, by decide, by decide⟩, by decide⟩

theorem witness_StepKeepsLegal :
    ∃ t, step faulted300 = .next t := ⟨_, rfl⟩

end Sys2Proof.Tests
end

section
/-! SUPPORT. What `Reset` leaves: the blank memory, the zero registers and stack, the clear display (10_state.md R38,
70_reset_and_hazards.md R260). -/

namespace Sys2Proof.Machine

/-! ### The contents of a memory that lists no byte (10_state.md R38) -/

theorem Memory.blank_of_lt (font : Config.Font) {a : Nat} (h : a < 0x50) : Memory.blank font a = font[a] := by
  rw [Memory.blank, Vector.getElem?_eq_getElem h, Option.getD_some]

theorem Memory.blank_of_le (font : Config.Font) {a : Nat} (h : 0x50 ≤ a) : Memory.blank font a = 0 := by
  rw [Memory.blank, Vector.getElem?_eq_none h, Option.getD_none]

/-! ### The state `Reset` leaves -/

theorem resetEvent_reg (s : State) (r : Reg) : (resetEvent s).reg r = 0 :=
  Vector.getElem_replicate r.isLt

theorem resetEvent_stack (s : State) (k : Fin 16) : (resetEvent s).stack[k.val] = 0 :=
  Vector.getElem_replicate k.isLt

theorem resetEvent_display (s : State) : (resetEvent s).display = Display.clear := rfl

/-- After `Reset` no byte is listed, so every address reads as blank, under the FONT the state has. -/
theorem resetEvent_read (s : State) (a : Nat) : (resetEvent s).read a = Memory.blank s.params.font a :=
  Memory.read_nil a

/-- Settles O52: `Reset` always completes with `resetEvent`, whose indexed state (registers, stack, memory, display)
reads by the lemmas above; each of its scalar fields is the constant of `State.reset`. -/
theorem resetSetsEveryValue : Obligations.ResetSetsEveryValue := by
  intro s
  have hfont : ∀ a (h : a < 0x50), (resetEvent s).read a = s.params.font[a] := fun a h =>
    (resetEvent_read s a).trans (Memory.blank_of_lt _ h)
  have hzero : ∀ a, 0x50 ≤ a → a ≤ 0xFFF → (resetEvent s).read a = 0 := fun a h _ =>
    (resetEvent_read s a).trans (Memory.blank_of_le _ h)
  have hdark : ∀ x y, (resetEvent s).display.pixel x y = false := fun x y => by
    rw [resetEvent_display, Display.pixel_clear]
  exact ⟨resetEvent s, rfl, resetEvent_reg s, rfl, rfl, rfl, resetEvent_stack s, rfl, rfl, hfont, hzero, hdark,
    rfl, rfl, rfl, rfl, rfl, rfl, rfl, rfl, rfl⟩

end Sys2Proof.Machine
end

section
/-! SUPPORT. Accesses above 0xFFF (20_memory.md R53): the fault a ranged access takes, and the fault of a fetch. -/

namespace Sys2Proof.Machine

/-! ### The ranged accesses -/

/-- A ranged access out of range changes the fault state alone, with PC back at the instruction (60_exceptions.md
R232) and FAULT_ADDR at the lowest address of the range above 0xFFF. -/
theorem withRange_out_of_range {n : Nat} {s body : State} (h0 : n ≠ 0) (h : 0xFFF < s.i.toNat + n - 1) :
    withRange n s body = .next { s with
      pc := s.pc - 2, runState := .faulted, faultCause := .memOob, faultPc := s.pc - 2
      faultAddr := BitVec.ofNat 16 (max s.i.toNat 0x1000) } := by
  rw [withRange_neg h0 h, firstBad_eq]; rfl

/-! ### Fetch -/

/-- A running tick whose second opcode byte lies above 0xFFF faults at PC and changes the fault state and RAND_IN alone
(40_cycle.md R101). -/
theorem deliver_instrTick_fetchOob {s : State} (r : Draw) (hrun : s.runState = .running)
    (hpc : 0xFFF < s.pc.toNat + 1) :
    deliver (.instrTick r) s = .next
      ({ s with randIn := r, runState := .faulted, faultCause := .fetchOob, faultPc := s.pc, faultAddr := s.pc },
        .fault .fetchOob) :=
  instrTick_fetch_none (s := { s with randIn := r }) hrun (fetch_none.2 hpc)

/-- Settles O43: DXYN, FX33, FX55 and FX65 are each one ranged access, of N, 3, X + 1 and X + 1 bytes; only N can be 0,
and then there is no access to check. -/
theorem outOfRangeAccessFaults : Obligations.OutOfRangeAccessFaults := by
  rintro x y n s t rfl
  have hcount : x.val + 1 ≠ 0 := Nat.succ_ne_zero _
  refine ⟨fun hn h => ?drw, fun h => ?bcd, fun h => ⟨?store, ?load⟩, fun r hrun hpc => ?fetch⟩
  case drw => exact withRange_out_of_range (BitVec.toNat_ne.1 hn) h
  case bcd => exact withRange_out_of_range (by decide) h
  case store => exact withRange_out_of_range hcount h
  case load => exact withRange_out_of_range hcount h
  case fetch => exact ⟨_, deliver_instrTick_fetchOob r hrun hpc, rfl⟩

end Sys2Proof.Machine
end

section
/-! SUPPORT. The instruction cycle (40_cycle.md): the fetch at the end of memory, KEY_WAIT after a tick, the unmapped
words, and the input rand_in, which CXNN alone reads. -/

namespace Sys2Proof.Machine

/-! ### KEY_WAIT (40_cycle.md R107) -/

/-- An instruction that waits for a key has set KEY_WAIT. -/
theorem exec_keyWait_of_waits {i : Instr} {s t : State} (hw : waitsForKey i s = true) (h : exec i s = .next t) :
    t.keyWait = true := by
  obtain ⟨⟨x, rfl⟩, hkeys⟩ := waitsForKey_iff.1 hw
  rcases execLdVxK_cases h with ⟨-, rfl⟩ | ⟨k, -, hk, -⟩
  · rfl
  · simp [hkeys] at hk

/-- An instruction that starts in RUNNING and ends in FAULTED has raised, so KEY_WAIT is as it was (60_exceptions.md
R232). -/
theorem exec_keyWait_of_faulted {i : Instr} {s t : State} (h : exec i s = .next t) (hs : s.runState = .running)
    (ht : t.runState = .faulted) : t.keyWait = s.keyWait := by
  rcases exec_cases i s t h with e | ⟨c, a, rfl, -⟩
  · have hrun : t.runState = s.runState := by rw [e]
    simp [hrun, hs] at ht
  · rfl

theorem finishTick_runState (op : Word) (s1 s2 : State) : (finishTick op s1 s2).1.runState = s2.runState := by
  cases h : s2.runState with
  | faulted => rw [finishTick_faulted h, h]
  | running =>
    rw [finishTick_running h]
    split <;> exact h

/-- At the end of a tick that did not fault, KEY_WAIT says whether its instruction waits for a key. -/
theorem finishTick_keyWait {op : Word} {s1 s2 : State} (hrun : s2.runState = .running)
    (h : exec (decodeWord op) s1 = .next s2) :
    (finishTick op s1 s2).1.keyWait = waitsForKey (decodeWord op) s1 := by
  rw [finishTick_running hrun]
  cases hw : waitsForKey (decodeWord op) s1 with
  | true => exact exec_keyWait_of_waits hw h
  | false => rfl

/-- After a tick that did not fault, KEY_WAIT is set exactly where the fetched word is an FX0A and no key is pressed. -/
theorem instrTick_keyWait_of_running {s t : State} {res : EventResult} (h : instrTick s = .next (t, res))
    (ht : t.runState = .running) :
    t.keyWait = true ↔ s.keys = 0 ∧ ∃ op x, fetch s = some op ∧ decodeWord op = .ldVxK x := by
  rcases instrTick_cases h with ⟨hhalt, rfl, -⟩ | ⟨-, -, rfl, -⟩ | ⟨-, op, s2, hfetch, hexec, hfin⟩
  · simp [hhalt] at ht
  · simp at ht
  · obtain rfl : (finishTick op _ s2).1 = t := congrArg Prod.fst hfin
    rw [finishTick_runState] at ht
    rw [finishTick_keyWait ht hexec, waitsForKey_iff, hfetch]
    constructor
    · rintro ⟨⟨x, hx⟩, hkeys⟩
      exact ⟨hkeys, op, x, rfl, hx⟩
    · rintro ⟨hkeys, _, x, ⟨⟩, hx⟩
      exact ⟨⟨x, hx⟩, hkeys⟩

/-- A Halted tick, a fetch fault and an instruction that raised all leave KEY_WAIT as it was. -/
theorem instrTick_keyWait_of_faulted {s t : State} {res : EventResult} (h : instrTick s = .next (t, res))
    (ht : t.runState = .faulted) : t.keyWait = s.keyWait := by
  rcases instrTick_cases h with ⟨-, rfl, -⟩ | ⟨-, -, rfl, -⟩ | ⟨hrun, op, s2, -, hexec, hfin⟩
  · rfl
  · rfl
  · obtain rfl : (finishTick op _ s2).1 = t := congrArg Prod.fst hfin
    rw [finishTick_runState] at ht
    rw [finishTick_faulted ht]
    simpa using exec_keyWait_of_faulted hexec hrun ht

/-- Settles O9: the tick with rand_in set to its input, taken apart by whether it ends RUNNING or FAULTED. -/
theorem keyWaitMirrorsWaiting : Obligations.KeyWaitMirrorsWaiting := by
  intro s t r res h
  exact ⟨instrTick_keyWait_of_running (s := { s with randIn := r }) h,
    instrTick_keyWait_of_faulted (s := { s with randIn := r }) h⟩

/-! ### The input rand_in (40_cycle.md R109) -/

theorem withRange_randIn {n : Nat} {s body t : State} (r : Draw) (h : withRange n s body = .next t) :
    withRange n { s with randIn := r } { body with randIn := r } = .next { t with randIn := r } := by
  rcases withRange_cases h with ⟨hin, rfl⟩ | ⟨hn, hout, rfl⟩
  · exact withRange_pos hin
  · exact withRange_neg (s := { s with randIn := r }) hn hout

theorem skipIf_randIn {c : Bool} {s t : State} (r : Draw) (h : skipIf c s = .next t) :
    skipIf c { s with randIn := r } = .next { t with randIn := r } := by
  rcases skipIf_cases h with ⟨rfl, rfl⟩ | ⟨rfl, rfl⟩ <;> rfl

theorem execCallNnn_randIn {nnn : BitVec 12} {s t : State} (r : Draw) (h : execCallNnn nnn s = .next t) :
    execCallNnn nnn { s with randIn := r } = .next { t with randIn := r } := by
  rcases execCallNnn_cases h with ⟨hsp, rfl⟩ | ⟨hsp, rfl⟩
  · exact execCallNnn_push (s := { s with randIn := r }) hsp
  · exact execCallNnn_overflow (s := { s with randIn := r }) hsp

theorem execRet_randIn {s t : State} (r : Draw) (h : execRet s = .next t) :
    execRet { s with randIn := r } = .next { t with randIn := r } := by
  rcases execRet_cases h with ⟨hsp, hk, rfl⟩ | ⟨hsp, rfl⟩
  · exact execRet_pop (s := { s with randIn := r }) hsp hk
  · exact execRet_underflow (s := { s with randIn := r }) hsp

theorem execLdVxK_randIn {x : Reg} {s t : State} (r : Draw) (h : execLdVxK x s = .next t) :
    execLdVxK x { s with randIn := r } = .next { t with randIn := r } := by
  have hkey : State.lowestKey { s with randIn := r } = s.lowestKey := rfl
  unfold execLdVxK at h ⊢
  rw [hkey]
  cases hk : s.lowestKey with
  | none => rw [hk] at h; cases h; rfl
  | some k => rw [hk] at h; cases h; rfl

theorem State.setRegs_randIn (bs : List Byte) : ∀ (s : State) (k : Nat) (r : Draw),
    State.setRegs { s with randIn := r } k bs = { s.setRegs k bs with randIn := r } := by
  induction bs with
  | nil => intro s k r; rfl
  | cons b bs ih => intro s k r; exact ih { s with v := s.v.setIfInBounds k b } (k + 1) r

theorem execLdVxMemI_randIn {x : Reg} {s t : State} (r : Draw) (h : execLdVxMemI x s = .next t) :
    execLdVxMemI x { s with randIn := r } = .next { t with randIn := r } := by
  unfold execLdVxMemI
  rw [State.setRegs_randIn]
  exact withRange_randIn r h

/-- Settles O11: the instructions with more than one outcome go by the shared operation they are made of; every other
one answers the same update of the state, whatever stands at rand_in. -/
theorem onlyRandomReadsRandIn : Obligations.OnlyRandomReadsRandIn := by
  intro i s t r hi h
  cases i
  case rndVxNn x nn => exact absurd rfl (hi x nn)
  case callNnn => exact execCallNnn_randIn r h
  case ret => exact execRet_randIn r h
  case ldVxK => exact execLdVxK_randIn r h
  case seVxNn | sneVxNn | seVxVy | sneVxVy | skpVx | sknpVx => exact skipIf_randIn r h
  case drwVxVyN | ldBVx | ldMemIVx => exact withRange_randIn r h
  case ldVxMemI => exact execLdVxMemI_randIn r h
  all_goals (cases h; rfl)

/-! ### Fetch (40_cycle.md R101) -/

/-- With both opcode bytes in the space, the fetch reads them, big-endian (20_memory.md R51). -/
theorem fetch_of_in_range {s : State} (h : s.pc.toNat + 1 ≤ 0xFFF) :
    fetch s = some (s.read s.pc.toNat ++ s.read (s.pc.toNat + 1)) := if_neg (Nat.not_lt.2 h)

/-- Settles O8: the fault of a fetch above 0xFFF, and the last PC that fetches. -/
theorem fetchOutOfRangeFaults : Obligations.FetchOutOfRangeFaults := by
  refine ⟨fun s r => deliver_instrTick_fetchOob r, fun s hpc => ?_⟩
  have hnat : s.pc.toNat = 0xFFE := by rw [hpc]; rfl
  have hfetch := fetch_of_in_range (s := s) (by rw [hnat])
  rwa [hnat] at hfetch

/-! ### The unmapped words (40_cycle.md R106) -/

/-- Settles O10: the word decodes to itself, unmapped, and `State.countUnmapped` is the state it answers. -/
theorem unmappedWordIsCounted : Obligations.UnmappedWordIsCounted := by
  intro op s hop
  exact ⟨decodeWord_of_unmapped hop, s.countUnmapped op, rfl, BitVec.toNat_add s.unmappedCount 1, rfl, rfl⟩

end Sys2Proof.Machine
end

section
/-! SUPPORT. Control transfer (41_control_flow.md): the words of the jumps, calls and skips, the addresses they compute
without wrap, and the stack after a push and a pop. -/

namespace Sys2Proof

/-- The round trip of an instruction's bytes is one of its opcode word. -/
theorem Laws.RoundTrip.Statement.decodeWord_encodeWord {i : Instr} (h : Statement i) (hi : i.wellFormed = true) :
    decodeWord (encodeWord i) = i := by
  simpa [encode, wordBytes, decode] using h hi

/-- Bits 3..0 of 5XYN are not examined (R127, D15). -/
theorem decodeWord_5XYN (x y : Reg) (n : BitVec 4) : decodeWord (wordTXYN 0x5 x y n) = .seVxVy x y := by
  simp [decodeWord]

/-- Bits 3..0 of 9XYN are not examined (R128, D15). -/
theorem decodeWord_9XYN (x y : Reg) (n : BitVec 4) : decodeWord (wordTXYN 0x9 x y n) = .sneVxVy x y := by
  simp [decodeWord]

end Sys2Proof

namespace Sys2Proof.Machine

open Sys2Proof.Laws

/-! ### Addresses -/

@[simp] theorem addr12_toNat (nnn : BitVec 12) : (addr12 nnn).toNat = nnn.toNat :=
  BitVec.toNat_setWidth_of_le (by decide)

@[simp] theorem State.regWord_toNat (s : State) (r : Reg) : (s.regWord r).toNat = (s.reg r).toNat :=
  BitVec.toNat_setWidth_of_le (by decide)

/-- NNN + V0 is at most 0xFFF + 0xFF, so the sum in 16 bits does not wrap (R124). -/
theorem addr12_add_regWord_toNat (nnn : BitVec 12) (s : State) (r : Reg) :
    (addr12 nnn + s.regWord r).toNat = nnn.toNat + (s.reg r).toNat := by
  have hnnn := nnn.isLt
  have hreg := (s.reg r).isLt
  rw [BitVec.toNat_add_of_lt] <;> simp only [addr12_toNat, State.regWord_toNat]
  omega

/-! ### The stack (10_state.md R24, R25) -/

theorem State.push_sp_toNat {s : State} (w : Word) (h : s.sp.toNat < 16) :
    (s.push w).sp.toNat = s.sp.toNat + 1 :=
  BitVec.toNat_add_of_lt (show s.sp.toNat + 1 < 2 ^ 8 by omega)

/-- The entry at the old SP takes the pushed word. -/
theorem State.push_stack_at_sp {s : State} (w : Word) (h : s.sp.toNat < 16) :
    (s.push w).stack[s.sp.toNat]? = some w := by
  rw [State.push_stack, Vector.getElem?_setIfInBounds_self_of_lt h]

/-- Every other entry is as it was. -/
theorem State.push_stack_of_ne {s : State} (w : Word) {k : Fin 16} (h : k.val ≠ s.sp.toNat) :
    (s.push w).stack[k.val] = s.stack[k.val] :=
  Vector.getElem_setIfInBounds_ne k.isLt h.symm

theorem State.pop_sp_toNat {s : State} (h : 0 < s.sp.toNat) : s.pop.sp.toNat = s.sp.toNat - 1 :=
  BitVec.toNat_sub_of_le (BitVec.le_def.2 h)

/-! ### The conditional skips (R120, R129) -/

theorem skipIf_of_true {c : Bool} {s : State} (h : c = true) : skipIf c s = .next { s with pc := s.pc + 2 } := by
  rw [h]; rfl

theorem skipIf_of_false {c : Bool} {s : State} (h : c = false) : skipIf c s = .next s := by
  rw [h]; rfl

/-- The skip on equality and the skip on inequality take opposite ways, by whether the operands are equal. -/
theorem skipIf_beq_bne (a b : Byte) (s : State) :
    (a = b → skipIf (a == b) s = .next { s with pc := s.pc + 2 } ∧ skipIf (a != b) s = .next s) ∧
    (a ≠ b → skipIf (a == b) s = .next s ∧ skipIf (a != b) s = .next { s with pc := s.pc + 2 }) :=
  ⟨fun h => ⟨skipIf_of_true (beq_iff_eq.2 h), skipIf_of_false (bne_eq_false_iff_eq.2 h)⟩,
    fun h => ⟨skipIf_of_false (beq_eq_false_iff_ne.2 h), skipIf_of_true (bne_iff_ne.2 h)⟩⟩

/-! ### The statements -/

/-- Settles O14: SP below 16 is the push, which writes the entry at SP alone; SP = 16 is the overflow. -/
theorem callPushesReturnAddress : Obligations.CallPushesReturnAddress := by
  intro nnn s
  refine ⟨(RoundTrip.callNnn nnn).decodeWord_encodeWord rfl, fun hsp => ?push, fun hsp => ?overflow⟩
  case push =>
    exact ⟨(s.push s.pc).setPc (addr12 nnn), execCallNnn_push hsp, addr12_toNat nnn, State.push_sp_toNat s.pc hsp,
      State.push_stack_at_sp s.pc hsp, fun k hk => State.push_stack_of_ne s.pc hk, rfl⟩
  case overflow => exact execCallNnn_overflow (congrArg BitVec.toNat hsp)

/-- Settles O15: with SP in 1..16 the entry below SP exists and is popped; SP = 0 is the underflow. -/
theorem returnPopsReturnAddress : Obligations.ReturnPopsReturnAddress := by
  intro s
  refine ⟨RoundTrip.ret.decodeWord_encodeWord rfl, fun hpos hle => ?pop, fun hsp => ?underflow⟩
  case pop =>
    have hne : s.sp ≠ 0 := BitVec.toNat_ne.2 hpos.ne'
    have htop : s.sp.toNat - 1 < 16 := by omega
    exact ⟨s.pop.setPc s.stack[s.sp.toNat - 1], execRet_pop hne htop, Vector.getElem?_eq_getElem htop,
      State.pop_sp_toNat hpos, rfl⟩
  case underflow => exact execRet_underflow hsp

/-- Settles O12: the jump is `State.setPc` at NNN. -/
theorem jumpGoesToNnn : Obligations.JumpGoesToNnn := by
  intro nnn s
  exact ⟨(RoundTrip.jpNnn nnn).decodeWord_encodeWord rfl, s.setPc (addr12 nnn), rfl, addr12_toNat nnn, rfl⟩

/-- Settles O13: the jump is `State.setPc` at a sum that does not wrap. -/
theorem jumpOffsetAddsRegisterZero : Obligations.JumpOffsetAddsRegisterZero := by
  intro nnn s
  exact ⟨(RoundTrip.jpV0Nnn nnn).decodeWord_encodeWord rfl, s.setPc (addr12 nnn + s.regWord 0), rfl,
    addr12_add_regWord_toNat nnn s 0, rfl⟩

/-- Settles O18: the two skips compare `V[X]` with NN. -/
theorem immediateSkips : Obligations.ImmediateSkips := by
  intro x nn s
  exact ⟨(RoundTrip.seVxNn x nn).decodeWord_encodeWord rfl, (RoundTrip.sneVxNn x nn).decodeWord_encodeWord rfl,
    skipIf_beq_bne (s.reg x) nn s⟩

/-- Settles O19: the two skips compare `V[X]` with `V[Y]`; N is no field of either. -/
theorem registerSkips : Obligations.RegisterSkips := by
  intro x y n s
  exact ⟨decodeWord_5XYN x y n, decodeWord_9XYN x y n, skipIf_beq_bne (s.reg x) (s.reg y) s⟩

end Sys2Proof.Machine
end

section
/-! SUPPORT. Register arithmetic and logic (42_alu.md): the frame of one register write, the flags as numbers, and the
registers after a flag write followed by a result write. -/

namespace Sys2Proof.Machine

open Sys2Proof.Laws

/-! ### One register write -/

theorem State.setReg_frame (s : State) (x : Reg) (b : Byte) :
    (∀ r, r ≠ x → (s.setReg x b).reg r = s.reg r) ∧ s.setReg x b = { s with v := (s.setReg x b).v } :=
  ⟨fun _ => State.reg_setReg_other s b, rfl⟩

/-! ### The flags as numbers -/

theorem boolByte_toNat (c : Bool) : (boolByte c).toNat = if c then 1 else 0 := by
  cases c <;> rfl

theorem carryFlag_toNat (p q : Byte) : (carryFlag p q).toNat = if p.toNat + q.toNat > 255 then 1 else 0 := by
  simp [carryFlag, boolByte_toNat]

theorem greaterFlag_toNat (p q : Byte) : (greaterFlag p q).toNat = if p.toNat > q.toNat then 1 else 0 := by
  simp [greaterFlag, boolByte_toNat]

theorem shrFlag_toNat (p : Byte) : (shrFlag p).toNat = p.toNat % 2 := by
  simp [shrFlag, BitVec.toNat_and, Nat.and_one_is_mod]

/-- A byte shifted right by 7 is one bit, so the mask of R150 takes nothing away. -/
theorem shlFlag_toNat (p : Byte) : (shlFlag p).toNat = p.toNat / 128 := by
  have hp := p.isLt
  have hmask : (shlFlag p).toNat = (p >>> 7).toNat % 2 := shrFlag_toNat (p >>> 7)
  rw [hmask, BitVec.toNat_ushiftRight, Nat.shiftRight_eq_div_pow]
  omega

/-! ### Byte arithmetic mod 256 -/

theorem byte_sub_toNat (p q : Byte) : (p - q).toNat = (p.toNat + (256 - q.toNat)) % 256 := by
  rw [BitVec.toNat_sub, Nat.add_comm]

theorem byte_shiftLeft_one_toNat (p : Byte) : (p <<< 1).toNat = 2 * p.toNat % 256 := by
  rw [BitVec.toNat_shiftLeft, Nat.shiftLeft_eq, Nat.mul_comm, Nat.pow_one]

theorem byte_ushiftRight_one_toNat (p : Byte) : (p >>> 1).toNat = p.toNat / 2 := by
  rw [BitVec.toNat_ushiftRight, Nat.shiftRight_eq_div_pow, Nat.pow_one]

/-! ### A flag write, then a result write (00_scope.md R11) -/

/-- What `t` holds after `VF <- f` and then `V[a] <- op V[a] V[b]`, by the cases of 42_alu.md for `a` and `b` against
F: an operand that is VF is read as `f`, and a destination that is VF loses the flag. -/
structure FlagThenResult (f : Byte) (op : Byte → Byte → Byte) (a b : Reg) (s t : State) : Prop where
  flag : a ≠ vf → t.reg vf = f
  neither : a ≠ vf → b ≠ vf → t.reg a = op (s.reg a) (s.reg b)
  first : a = vf → b ≠ vf → t.reg vf = op f (s.reg b)
  second : a ≠ vf → b = vf → t.reg a = op (s.reg a) f
  both : a = vf → b = vf → t.reg vf = op f f
  other : ∀ r, r ≠ a → r ≠ vf → t.reg r = s.reg r
  frame : t = { s with v := t.v }

theorem flagThenBinary_next (flag op : Byte → Byte → Byte) (a b : Reg) (s : State) :
    ∃ t, flagThenBinary flag op a b s = .next t ∧ FlagThenResult (flag (s.reg a) (s.reg b)) op a b s t := by
  refine ⟨_, rfl, ?_⟩
  constructor
  case flag => intro ha; rw [State.reg_setReg_other _ _ ha.symm, State.reg_setReg_same]
  case neither =>
    intro ha hb
    rw [State.reg_setReg_same, State.reg_setReg_other _ _ ha, State.reg_setReg_other _ _ hb]
  case first => rintro rfl hb; rw [State.reg_setReg_same, State.reg_setReg_same, State.reg_setReg_other _ _ hb]
  case second => rintro ha rfl; rw [State.reg_setReg_same, State.reg_setReg_same, State.reg_setReg_other _ _ ha]
  case both => rintro rfl rfl; rw [State.reg_setReg_same, State.reg_setReg_same]
  case other => intro r hr hvf; rw [State.reg_setReg_other _ _ hr, State.reg_setReg_other _ _ hvf]
  case frame => rfl

/-- A shift is the same two writes with the second operand ignored. -/
theorem flagThenUnary_next (flag op : Byte → Byte) (a : Reg) (s : State) :
    ∃ t, flagThenUnary flag op a s = .next t ∧ FlagThenResult (flag (s.reg a)) (fun p _ => op p) a a s t :=
  flagThenBinary_next (fun p _ => flag p) (fun p _ => op p) a a s

/-- The spec's inference in R149: with SUBN_DEST at its default, 8XY7 is 8YX5. -/
theorem execSubnVxVy_of_dest_y {x y : Reg} {s : State} (h : s.params.subnDest = .y) :
    execSubnVxVy x y s = execSubVxVy y x s := by
  rw [execSubnVxVy, h]; rfl

/-! ### The statements -/

/-- Settles O22: 8XY4 is the carry flag and then the sum; the carry is at most 1, so its double does not wrap. -/
theorem addSetsCarryThenSum : Obligations.AddSetsCarryThenSum := by
  intro x y s
  obtain ⟨t, ht, h⟩ := flagThenBinary_next carryFlag (· + ·) x y s
  refine ⟨(RoundTrip.addVxVy x y).decodeWord_encodeWord rfl, t, ht, fun c hc => ?_, h.other, h.frame⟩
  rw [← carryFlag_toNat] at hc
  refine ⟨fun hx hy => ⟨?sum, ?carry⟩, fun hx hy => ?destF, fun hx hy => ⟨?carryF, ?sumF⟩, fun hx hy => ?bothF⟩
  case sum => rw [h.neither hx hy, BitVec.toNat_add]
  case carry | carryF => rw [h.flag hx, hc]
  case destF => rw [h.first hx hy, BitVec.toNat_add, hc]
  case sumF => rw [h.second hx hy, BitVec.toNat_add, hc]
  case bothF =>
    have hle : c ≤ 1 := by rw [hc, carryFlag_toNat]; split <;> decide
    rw [h.both hx hy, BitVec.toNat_add, ← hc]
    omega

/-- Settles O23: 8XY5 is the strict comparison and then the difference; a flag less itself is 0. -/
theorem subtractSetsGreaterThenDifference : Obligations.SubtractSetsGreaterThenDifference := by
  intro x y s
  obtain ⟨t, ht, h⟩ := flagThenBinary_next greaterFlag (· - ·) x y s
  refine ⟨(RoundTrip.subVxVy x y).decodeWord_encodeWord rfl, t, ht, fun b hb => ?_, h.other, h.frame⟩
  rw [← greaterFlag_toNat] at hb
  refine ⟨fun hx hy => ⟨?diff, ?flag⟩, fun hx hy => ?destF, fun hx hy => ⟨?flagF, ?diffF⟩, fun hx hy => ?bothF⟩
  case diff => rw [h.neither hx hy, byte_sub_toNat]
  case flag | flagF => rw [h.flag hx, hb]
  case destF => rw [h.first hx hy, byte_sub_toNat, hb]
  case diffF => rw [h.second hx hy, byte_sub_toNat, hb]
  case bothF => rw [h.both hx hy, BitVec.sub_self]; rfl

/-- Settles O24: at the default of SUBN_DEST 8XY7 is 8YX5, so its cases are those of O23 with X and Y exchanged. -/
theorem reverseSubtractWritesVy : Obligations.ReverseSubtractWritesVy := by
  intro x y s hdest
  obtain ⟨-, t, ht, hcases, hother, hframe⟩ := subtractSetsGreaterThenDifference y x s
  refine ⟨(RoundTrip.subnVxVy x y).decodeWord_encodeWord rfl, t, (execSubnVxVy_of_dest_y hdest).trans ht,
    fun b hb => ?_, hother, hframe⟩
  obtain ⟨hneither, hdestF, hsourceF, hbothF⟩ := hcases b hb
  exact ⟨fun hx hy => hneither hy hx, fun hx hy => hdestF hy hx, fun hx hy => hsourceF hy hx,
    fun hx hy => hbothF hy hx⟩

/-- Settles O27: with X = F the shift acts on the bit shifted out, which halves to 0 and doubles without wrap. -/
theorem shiftsSetBitOutThenResult : Obligations.ShiftsSetBitOutThenResult := by
  intro x y s
  obtain ⟨t, ht, hr⟩ := flagThenUnary_next shrFlag (· >>> 1) x s
  obtain ⟨u, hu, hl⟩ := flagThenUnary_next shlFlag (· <<< 1) x s
  have hlt := (s.reg x).isLt
  refine ⟨(RoundTrip.shrVxVy x y).decodeWord_encodeWord rfl, (RoundTrip.shlVxVy x y).decodeWord_encodeWord rfl,
    ⟨t, ht, fun hx => ⟨?half, ?lowBit⟩, fun hx => ?halfF, hr.other, hr.frame⟩,
    ⟨u, hu, fun hx => ⟨?double, ?highBit⟩, fun hx => ?doubleF, hl.other, hl.frame⟩⟩
  case half => rw [hr.neither hx hx, byte_ushiftRight_one_toNat]
  case lowBit => rw [hr.flag hx, shrFlag_toNat]
  case halfF => rw [hr.both hx hx, byte_ushiftRight_one_toNat, shrFlag_toNat]; omega
  case double => rw [hl.neither hx hx, byte_shiftLeft_one_toNat]
  case highBit => rw [hl.flag hx, shlFlag_toNat]
  case doubleF => rw [hl.both hx hx, byte_shiftLeft_one_toNat, shlFlag_toNat]; omega

/-- Settles O20: each is one write of `V[X]`. -/
theorem immediateLoadAndAdd : Obligations.ImmediateLoadAndAdd := by
  intro x nn s
  refine ⟨(RoundTrip.ldVxNn x nn).decodeWord_encodeWord rfl, (RoundTrip.addVxNn x nn).decodeWord_encodeWord rfl,
    ⟨_, rfl, State.reg_setReg_same s x nn, State.setReg_frame s x nn⟩, ⟨_, rfl, ?sum, State.setReg_frame s x _⟩⟩
  case sum => rw [State.reg_setReg_same, BitVec.toNat_add]

/-- Settles O21: each is one write of `V[X]`, so VF is a register like any other. -/
theorem copyAndBitwise : Obligations.CopyAndBitwise := by
  intro x y s
  refine ⟨⟨(RoundTrip.ldVxVy x y).decodeWord_encodeWord rfl, (RoundTrip.orVxVy x y).decodeWord_encodeWord rfl,
      (RoundTrip.andVxVy x y).decodeWord_encodeWord rfl, (RoundTrip.xorVxVy x y).decodeWord_encodeWord rfl⟩,
    ⟨_, rfl, State.reg_setReg_same s x _, State.setReg_frame s x _⟩,
    ⟨_, rfl, fun b _ => ?or, State.setReg_frame s x _⟩,
    ⟨_, rfl, fun b _ => ?and, State.setReg_frame s x _⟩,
    ⟨_, rfl, fun b _ => ?xor, State.setReg_frame s x _⟩⟩
  case or => rw [State.reg_setReg_same, BitVec.getLsbD_or]
  case and => rw [State.reg_setReg_same, BitVec.getLsbD_and]
  case xor => rw [State.reg_setReg_same, BitVec.getLsbD_xor]

/-- Settles O28: one write of `V[X]`, the byte at rand_in masked. -/
theorem randomByteUnderMask : Obligations.RandomByteUnderMask := by
  intro x nn s
  refine ⟨(RoundTrip.rndVxNn x nn).decodeWord_encodeWord rfl, _, rfl, fun b _ => ?_, State.setReg_frame s x _⟩
  rw [State.reg_setReg_same, BitVec.getLsbD_and]

end Sys2Proof.Machine
end

section
/-! SUPPORT. The address register and memory transfer (43_index_memory.md): a run of bytes stored at I, the decimal
digits of a byte, and the bytes and registers `V[0..X]` that FX55 and FX65 move. -/

namespace Sys2Proof.Machine

open Sys2Proof.Laws

/-! ### A run of bytes stored at I -/

/-- What `t` holds after a store of `n + 1` bytes at I that is in range: the bytes where they were written, and all else
as it was in `s`. FX33 and FX55 are such stores. -/
theorem withRange_writeBytes {n : Nat} {s : State} {bs : List Byte} (hm : s.memWf) (hlen : bs.length = n + 1)
    (h : s.i.toNat + n ≤ 0xFFF) :
    ∃ t, withRange (n + 1) s (s.writeBytes s.i.toNat bs) = .next t ∧
      (∀ k (hk : k < bs.length), t.read (s.i.toNat + k) = bs[k]) ∧
      (∀ a, a < s.i.toNat ∨ s.i.toNat + n < a → t.read a = s.read a) ∧ t = { s with mem := t.mem } := by
  have hfits : s.i.toNat + bs.length ≤ Config.memSize := by rw [hlen]; exact Nat.succ_le_succ h
  refine ⟨_, withRange_pos (.inr h), fun k hk => State.read_writeBytes hm bs hfits hk, fun a ha => ?_, rfl⟩
  exact State.read_writeBytes_other s bs (by omega)

/-! ### The decimal digits of a byte (R173) -/

/-- A number that is at most a byte is its own byte; each digit of a byte is one. -/
theorem byte_ofNat_toNat {d : Nat} {b : Byte} (h : d ≤ b.toNat) : (BitVec.ofNat 8 d).toNat = d :=
  (BitVec.toNat_ofNat d 8).trans (Nat.mod_eq_of_lt (h.trans_lt b.isLt))

@[simp] theorem length_bcdDigits (b : Byte) : (bcdDigits b).length = 3 := rfl

theorem bcdDigits_toNat (b : Byte) :
    (bcdDigits b)[0].toNat = b.toNat / 100 ∧ (bcdDigits b)[1].toNat = b.toNat / 10 % 10 ∧
      (bcdDigits b)[2].toNat = b.toNat % 10 :=
  ⟨byte_ofNat_toNat (Nat.div_le_self _ _), byte_ofNat_toNat ((Nat.mod_le _ _).trans (Nat.div_le_self _ _)),
    byte_ofNat_toNat (Nat.mod_le _ _)⟩

/-! ### The registers V[0..X] (R174, R175) -/

theorem length_take_regs (s : State) (x : Reg) : (s.v.toList.take (x.val + 1)).length = x.val + 1 := by
  rw [List.length_take_of_le (by rw [Vector.length_toList]; exact x.isLt)]

theorem getElem_take_regs (s : State) (x k : Reg) (h : k.val < (s.v.toList.take (x.val + 1)).length) :
    (s.v.toList.take (x.val + 1))[k.val] = s.reg k := by
  rw [List.getElem_take, Vector.getElem_toList]; rfl

/-- The registers `V[0..X]` loaded from `a` upwards take the bytes there. -/
theorem State.reg_setRegs_readBytes_of_le (s : State) (a : Nat) {x k : Reg} (h : k ≤ x) :
    (s.setRegs 0 (s.readBytes a (x.val + 1))).reg k = s.read (a + k.val) := by
  have hk : k.val < (s.readBytes a (x.val + 1)).length := by
    rw [State.length_readBytes]; exact Nat.lt_succ_of_le h
  rw [State.reg_setRegs, dif_pos ⟨Nat.zero_le _, hk⟩, State.getElem_readBytes]; rfl

theorem State.reg_setRegs_readBytes_of_lt (s : State) (a : Nat) {x k : Reg} (h : x < k) :
    (s.setRegs 0 (s.readBytes a (x.val + 1))).reg k = s.reg k := by
  rw [State.reg_setRegs, dif_neg]
  rintro ⟨-, hk⟩
  rw [State.length_readBytes] at hk
  exact absurd (Nat.le_of_lt_succ hk) (Nat.not_le.2 h)

/-! ### The statements -/

/-- Settles O30: FX33 is a store of the three digits at I; each digit is at most the byte, so it is its own byte. -/
theorem bcdWritesThreeDigits : Obligations.BcdWritesThreeDigits := by
  intro x s hm
  refine ⟨(RoundTrip.ldBVx x).decodeWord_encodeWord rfl, fun h => ?digits,
    fun h => withRange_out_of_range (by decide) h⟩
  case digits =>
    obtain ⟨t, ht, hread, hother, hframe⟩ := withRange_writeBytes hm (length_bcdDigits (s.reg x)) h
    obtain ⟨hhundreds, htens, hunits⟩ := bcdDigits_toNat (s.reg x)
    refine ⟨t, ht, ?hundreds, ?tens, ?units, hother, hframe⟩
    case hundreds => exact (congrArg BitVec.toNat (hread 0 (Nat.succ_pos 2))).trans hhundreds
    case tens => rw [hread 1 (Nat.one_lt_succ_succ 1), htens]
    case units => rw [hread 2 (Nat.lt_succ_self 2), hunits]

/-- Settles O31: FX55 is a store of the first X + 1 registers at I. -/
theorem storeWritesRegisters : Obligations.StoreWritesRegisters := by
  intro x s hm
  refine ⟨(RoundTrip.ldMemIVx x).decodeWord_encodeWord rfl, fun h => ?store,
    fun h => withRange_out_of_range (Nat.succ_ne_zero _) h⟩
  case store =>
    obtain ⟨t, ht, hread, hother, hframe⟩ := withRange_writeBytes hm (length_take_regs s x) h
    refine ⟨t, ht, fun k hk => ?_, hother, hframe⟩
    have hlt : k.val < (s.v.toList.take (x.val + 1)).length := by
      rw [length_take_regs]; exact Nat.lt_succ_of_le hk
    rw [hread k.val hlt, getElem_take_regs]

/-- Settles O32: FX65 sets the first X + 1 registers to the bytes at I. -/
theorem loadReadsRegisters : Obligations.LoadReadsRegisters := by
  intro x s
  refine ⟨(RoundTrip.ldVxMemI x).decodeWord_encodeWord rfl, fun h => ?load,
    fun h => withRange_out_of_range (Nat.succ_ne_zero _) h⟩
  case load =>
    exact ⟨_, withRange_pos (.inr h), fun k hk => State.reg_setRegs_readBytes_of_le s _ hk,
      fun k hk => State.reg_setRegs_readBytes_of_lt s _ hk, State.setRegs_frame _ s 0⟩

/-- Settles O29: each is one write of I; the largest glyph address, 255 * 5, does not wrap. -/
theorem addressRegisterWrites : Obligations.AddressRegisterWrites := by
  intro x nnn s
  refine ⟨(RoundTrip.ldINnn nnn).decodeWord_encodeWord rfl, (RoundTrip.addIVx x).decodeWord_encodeWord rfl,
    (RoundTrip.ldFVx x).decodeWord_encodeWord rfl, ⟨_, rfl, addr12_toNat nnn, rfl⟩,
    ⟨_, rfl, ?sum, rfl⟩, ⟨_, rfl, ?glyph, rfl⟩⟩
  case sum => rw [State.setI_i, BitVec.toNat_add, State.regWord_toNat]
  case glyph =>
    have hlt := (s.reg x).isLt
    have hfits : (s.regWord x).toNat * 5 < 2 ^ 16 := by rw [State.regWord_toNat]; omega
    rw [State.setI_i, BitVec.toNat_mul_of_lt hfits, State.regWord_toNat]; rfl

end Sys2Proof.Machine
end

section
/-! SUPPORT. The display instructions (44_display.md): the pixels a sprite erases, and the flag byte of a collision. -/

namespace Sys2Proof.Machine

open Sys2Proof.Laws

/-! ### The collision flag (R194) -/

theorem boolByte_eq_zero_or_one (c : Bool) : boolByte c = 0 ∨ boolByte c = 1 := by
  cases c
  · exact .inl rfl
  · exact .inr rfl

theorem boolByte_eq_one_iff (c : Bool) : boolByte c = 1 ↔ c = true := by
  cases c <;> decide

/-- A pixel XORed with a bit goes from lit to dark exactly where the bit is set. -/
theorem lit_and_xor_dark_iff {lit bit : Bool} : (lit = true ∧ (lit ^^ bit) = false) ↔ lit = true ∧ bit = true := by
  cases lit <;> cases bit <;> decide

/-- A collision is a covered pixel that went from 1 to 0: no pixel is composited twice, so the display after the whole
sprite shows what each composited pixel became. -/
theorem drawSprite_collision_iff_erased {x y : Reg} {n : BitVec 4} {s : State} (d : Display) :
    (drawSprite d (spriteOf x y n s)).2 = true ↔ ∃ r b, r < n.toNat ∧ b < 8 ∧
      d.pixel (spritePlace x y s r b).1 (spritePlace x y s r b).2 = true ∧
      (drawSprite d (spriteOf x y n s)).1.pixel (spritePlace x y s r b).1 (spritePlace x y s r b).2 = false := by
  rw [drawSprite_collision]
  constructor
  · rintro ⟨r, hr, b, hb, hcollides⟩
    refine ⟨r, b, hr, hb, ?_⟩
    rwa [drawSprite_covered d hr hb, lit_and_xor_dark_iff]
  · rintro ⟨r, b, hr, hb, herased⟩
    rw [drawSprite_covered d hr hb, lit_and_xor_dark_iff] at herased
    exact ⟨r, hr, b, hb, herased⟩

/-! ### The statements -/

/-- Settles O36: in range the draw is one display update by `drawSprite` and one write of VF, so each clause is a law of
`drawSprite` at the sprite of `s`, whose origin is read before VF is written. -/
theorem drawCompositesSprite : Obligations.DrawCompositesSprite := by
  rintro x y n s _ _ rfl rfl hrange
  have hin : n.toNat = 0 ∨ s.i.toNat + n.toNat - 1 ≤ 0xFFF := hrange.imp_left (congrArg BitVec.toNat)
  refine ⟨(RoundTrip.drwVxVyN x y n).decodeWord_encodeWord rfl, _, withRange_pos hin,
    fun r b hr hb => drawSprite_covered s.display hr hb, fun px py houtside => ?other, ?bit, ?flag,
    fun r hr => State.reg_setReg_other _ _ hr, rfl⟩
  case other =>
    refine drawSprite_other s.display fun r b hr hb hplace => houtside r b hr hb ?_
    obtain ⟨hx, hy⟩ := Prod.mk.inj hplace
    exact ⟨hx.symm, hy.symm⟩
  case bit => rw [State.reg_setReg_same]; exact boolByte_eq_zero_or_one _
  case flag =>
    rw [State.reg_setReg_same, boolByte_eq_one_iff]
    exact drawSprite_collision_iff_erased s.display

/-- Settles O35: the clear is `State.setDisplay` at the dark display. -/
theorem clearDarkensEveryPixel : Obligations.ClearDarkensEveryPixel := by
  intro s
  exact ⟨RoundTrip.cls.decodeWord_encodeWord rfl, s.setDisplay Display.clear, rfl, Display.pixel_clear, rfl⟩

end Sys2Proof.Machine
end

section
/-! SUPPORT. The timers and the keypad (45_timers_keys.md): the timers after a number of TimerTicks, what FX0A does with
and without a pressed key, and the two skips on a key. -/

namespace Sys2Proof.Machine

open Sys2Proof.Laws

/-! ### The timers (60_exceptions.md R240) -/

/-- A timer stays at 0, where the subtraction of naturals stops too. -/
theorem countDown_toNat (t : Byte) : (countDown t).toNat = t.toNat - 1 := by
  unfold countDown
  split
  case isTrue hzero => rw [hzero]; rfl
  case isFalse hne =>
    have hpos : 1 ≤ t.toNat := Nat.one_le_iff_ne_zero.2 (BitVec.toNat_ne.1 hne)
    exact BitVec.toNat_sub_of_le (BitVec.le_def.2 hpos)

theorem timerTickEvent_of_running {s : State} (h : s.runState = .running) :
    timerTickEvent s = { s with dt := countDown s.dt, st := countDown s.st } := by
  rw [timerTickEvent, h]

/-- From RUNNING, `k` TimerTicks leave the sound timer `k` lower, or at 0. -/
theorem timerTickEvent_iterate_st_toNat (k : Nat) : ∀ {s : State}, s.runState = .running →
    (timerTickEvent^[k] s).st.toNat = s.st.toNat - k := by
  induction k with
  | zero => intro s _; rfl
  | succ k ih =>
    intro s hrun
    have hstill : (timerTickEvent s).runState = .running := by rw [timerTickEvent_of_running hrun, hrun]
    have hst : (timerTickEvent s).st.toNat = s.st.toNat - 1 := by
      rw [timerTickEvent_of_running hrun, countDown_toNat]
    rw [Function.iterate_succ_apply, ih hstill, hst, Nat.sub_sub, Nat.add_comm]

theorem State.soundActive_iff {s : State} : s.soundActive = true ↔ 0 < s.st.toNat := by
  rw [State.soundActive, bne_iff_ne, ← BitVec.toNat_ne_iff_ne, Nat.pos_iff_ne_zero]; rfl

/-! ### FX0A (R215) -/

theorem execLdVxK_of_no_key {x : Reg} {s : State} (h : s.keys = 0) :
    execLdVxK x s = .next { s with pc := s.pc - 2, keyWait := true } := by
  rw [execLdVxK, State.lowestKey_none.2 h]; rfl

/-- With a key pressed there is a lowest one, and FX0A takes its code. -/
theorem execLdVxK_of_key {x : Reg} {s : State} (h : s.keys ≠ 0) :
    ∃ k, s.lowestKey = some k ∧ execLdVxK x s = .next (s.setReg x (BitVec.ofNat 8 k)) := by
  obtain ⟨k, hk⟩ := Option.ne_none_iff_exists'.1 (mt State.lowestKey_none.1 h)
  exact ⟨k, hk, by rw [execLdVxK, hk]⟩

/-! ### The skips on a key (R213, R214, R216) -/

theorem State.pressed_iff {s : State} {code : Byte} :
    s.pressed code = true ↔ code.toNat ≤ 0xF ∧ s.keys.getLsbD code.toNat = true := by
  rw [State.pressed, Bool.and_eq_true, decide_eq_true_iff]

/-! ### The statements -/

/-- Settles O39: FX18 is one write of ST; `k` ticks leave ST at `V[X] - k`, which is positive exactly where `k` is
below `V[X]`. -/
theorem soundLastsForTimerTicks : Obligations.SoundLastsForTimerTicks := by
  intro x s
  refine ⟨(RoundTrip.ldStVx x).decodeWord_encodeWord rfl, s.setSt (s.reg x), rfl, rfl, rfl, fun hrun k => ?_⟩
  rw [State.soundActive_iff, timerTickEvent_iterate_st_toNat k (s := s.setSt (s.reg x)) hrun, State.setSt_st,
    Nat.sub_pos_iff_lt]

/-- Settles O41: the lowest key's code is at most 15, so it is its own byte in `V[X]`. -/
theorem waitForKeyTakesLowest : Obligations.WaitForKeyTakesLowest := by
  intro x s
  refine ⟨(RoundTrip.ldVxK x).decodeWord_encodeWord rfl, execLdVxK_of_no_key, fun hkeys => ?latch⟩
  case latch =>
    obtain ⟨k, hk, hexec⟩ := execLdVxK_of_key (x := x) hkeys
    obtain ⟨hlt, hpressed, hlowest⟩ := State.lowestKey_some hk
    have hcode : ((s.setReg x (BitVec.ofNat 8 k)).reg x).toNat = k := by
      rw [State.reg_setReg_same, BitVec.toNat_ofNat, Nat.mod_eq_of_lt (hlt.trans (by decide))]
    refine ⟨_, hexec, ?_, ?_, State.setReg_frame s x _⟩ <;> rw [hcode]
    · exact hpressed
    · exact hlowest

/-- Settles O38: FX07 is one write of `V[X]`, FX15 one write of DT. -/
theorem delayTimerReadAndWrite : Obligations.DelayTimerReadAndWrite := by
  intro x s
  exact ⟨(RoundTrip.ldVxDt x).decodeWord_encodeWord rfl, (RoundTrip.ldDtVx x).decodeWord_encodeWord rfl,
    ⟨s.setReg x s.dt, rfl, State.reg_setReg_same s x s.dt, State.setReg_frame s x s.dt⟩,
    ⟨s.setDt (s.reg x), rfl, rfl, rfl⟩⟩

/-- Settles O40: both skips ask whether the key `V[X]` is pressed, and EXA1 takes the answer negated. -/
theorem keySkips : Obligations.KeySkips := by
  intro x s
  refine ⟨(RoundTrip.skpVx x).decodeWord_encodeWord rfl, (RoundTrip.sknpVx x).decodeWord_encodeWord rfl,
    fun h => ?pressed, fun h => ?notPressed⟩ <;> rw [← State.pressed_iff] at h
  case pressed => exact ⟨skipIf_of_true h, skipIf_of_false (by rw [h]; rfl)⟩
  case notPressed =>
    rw [Bool.not_eq_true] at h
    exact ⟨skipIf_of_false h, skipIf_of_true (by rw [h]; rfl)⟩

end Sys2Proof.Machine
end

section
/-! SUPPORT. The faults of a tick (60_exceptions.md R230 to R232): where an instruction tick returns Fault, and the
state it then leaves. -/

namespace Sys2Proof.Machine

/-! ### Fault entry (R232) -/

/-- A fault raised by an instruction, where PC is already advanced, is taken at the address of the instruction. -/
theorem State.raise_setPc_add_two (s : State) (c : FaultCause) (a : Word) :
    (s.setPc (s.pc + 2)).raise c a = s.enterFault s.pc c a := by
  have hpc : (s.setPc (s.pc + 2)).pc - 2 = s.pc := BitVec.add_sub_cancel s.pc 2
  rw [State.raise, hpc]; rfl

theorem tickResult_ne_fault (op : Word) (c : FaultCause) : tickResult op ≠ .fault c := by
  unfold tickResult
  split <;> exact EventResult.noConfusion

/-- A tick whose instruction ran returns Fault only where the instruction left the machine FAULTED. -/
theorem finishTick_fault {op : Word} {s1 s2 t : State} {c : FaultCause}
    (h : finishTick op s1 s2 = (t, .fault c)) : s2.runState = .faulted ∧ t = s2 ∧ c = s2.faultCause := by
  cases hrun : s2.runState with
  | running =>
    rw [finishTick_running hrun] at h
    exact absurd (congrArg Prod.snd h) (tickResult_ne_fault op c)
  | faulted =>
    rw [finishTick_faulted hrun] at h
    cases h
    exact ⟨rfl, rfl, rfl⟩

/-! ### The table of causes (R230) -/

/-- Why the tick at `s` faults, and the FAULT_ADDR it gives: the opcode cannot be fetched, or the fetched instruction
raises. -/
def TickFaults (s : State) (c : FaultCause) (a : Word) : Prop :=
  (c = .fetchOob ∧ 0xFFF < s.pc.toNat + 1 ∧ a = s.pc) ∨ ∃ op, fetch s = some op ∧ Raises (decodeWord op) s c a

/-- Where a row of the table holds, a running tick takes that fault, at PC. -/
theorem instrTick_of_tickFaults {s : State} {c : FaultCause} {a : Word} (hrun : s.runState = .running)
    (h : TickFaults s c a) : instrTick s = .next (s.enterFault s.pc c a, .fault c) := by
  rcases h with ⟨rfl, hpc, rfl⟩ | ⟨op, hfetch, hraises⟩
  · exact instrTick_fetch_none hrun (fetch_none.2 hpc)
  · have hexec : exec (decodeWord op) (s.setPc (s.pc + 2)) = .next (s.enterFault s.pc c a) := by
      rw [← State.raise_setPc_add_two]
      exact exec_raises hraises
    rw [instrTick_run hrun hfetch hexec, finishTick_faulted rfl]; rfl

/-- A tick that returns Fault started in RUNNING at a row of the table, and entered that row's fault at PC. -/
theorem tickFaults_of_instrTick {s t : State} {c : FaultCause} (h : instrTick s = .next (t, .fault c)) :
    s.runState = .running ∧ ∃ a, TickFaults s c a ∧ t = s.enterFault s.pc c a := by
  rcases instrTick_cases h with ⟨-, -, hres⟩ | ⟨hrun, hfetch, rfl, hres⟩ | ⟨hrun, op, s2, hfetch, hexec, hfin⟩
  · cases hres
  · cases hres
    exact ⟨hrun, s.pc, .inl ⟨rfl, fetch_none.1 hfetch, rfl⟩, rfl⟩
  · obtain ⟨hfaulted, rfl, rfl⟩ := finishTick_fault hfin
    rcases exec_cases _ _ _ hexec with hframe | ⟨c, a, rfl, hraises⟩
    · have hstill : t.runState = s.runState := by rw [hframe]; rfl
      rw [hstill, hrun] at hfaulted
      cases hfaulted
    · exact ⟨hrun, a, .inr ⟨op, hfetch, hraises⟩, State.raise_setPc_add_two s c a⟩

theorem eq_firstBad_iff {a i : Word} : a = firstBad i ↔ a.toNat = max i.toNat 0x1000 := by
  rw [← BitVec.toNat_inj, firstBad_toNat]

/-! ### The statements -/

/-- Settles O44: the fault is entered at PC, in the state with rand_in at the tick's input. -/
theorem faultsArePrecise : Obligations.FaultsArePrecise := by
  intro s t r c h
  obtain ⟨hrun, a, -, rfl⟩ := tickFaults_of_instrTick (s := { s with randIn := r }) h
  exact ⟨hrun, rfl⟩

/-- Settles O45: the table is `TickFaults`, which does not read rand_in, and FAULT_ADDR is the row's address because it
is the one the fault entry writes. -/
theorem faultRecordFollowsTable : Obligations.FaultRecordFollowsTable := by
  refine ⟨⟨rfl, rfl, rfl, rfl, rfl⟩, fun s hs hnone => ?record, fun s r c a hrun => ?table⟩
  case record =>
    have hrecord := hs.record
    rw [State.recordOk, hnone] at hrecord
    exact hrecord.2
  case table =>
    simp only [← eq_firstBad_iff]
    change _ ↔ TickFaults s c a
    constructor
    · rintro ⟨t, htick, -, -, rfl⟩
      obtain ⟨-, a, hfaults, rfl⟩ := tickFaults_of_instrTick (s := { s with randIn := r }) htick
      exact hfaults
    · intro hfaults
      exact ⟨_, instrTick_of_tickFaults (s := { s with randIn := r }) hrun hfaults, rfl, rfl, rfl⟩

end Sys2Proof.Machine
end

section
/-! SUPPORT. The host events (60_exceptions.md R240 to R245): TimerTick, the keys and Load, and what they do in the
faulted state (R233, R234). -/

namespace Sys2Proof.Machine

/-! ### TimerTick (R240) -/

theorem timerTickEvent_of_faulted {s : State} (h : s.runState = .faulted) : timerTickEvent s = s := by
  rw [timerTickEvent, h]

/-- In either run state TimerTick changes DT and ST alone. -/
theorem timerTickEvent_frame (s : State) :
    timerTickEvent s = { s with dt := (timerTickEvent s).dt, st := (timerTickEvent s).st } := by
  unfold timerTickEvent
  split <;> rfl

/-! ### The keys (R243, R244) -/

theorem getLsbD_keyMask (j k : Key) : (1#16 <<< k.val).getLsbD j.val = decide (j = k) := by
  rw [← BitVec.twoPow_eq, BitVec.getLsbD_twoPow]
  simp [Fin.ext_iff, eq_comm]

theorem keyDownEvent_key (j k : Key) (s : State) :
    (keyDownEvent k s).keys.getLsbD j.val = if j = k then true else s.keys.getLsbD j.val := by
  have hbit : (keyDownEvent k s).keys.getLsbD j.val = (s.keys.getLsbD j.val || decide (j = k)) := by
    rw [← getLsbD_keyMask]; exact BitVec.getLsbD_or
  rw [hbit]
  split <;> simp [*]

theorem keyUpEvent_key (j k : Key) (s : State) :
    (keyUpEvent k s).keys.getLsbD j.val = if j = k then false else s.keys.getLsbD j.val := by
  have hbit : (keyUpEvent k s).keys.getLsbD j.val = (s.keys.getLsbD j.val && !decide (j = k)) := by
    rw [← getLsbD_keyMask, keyUpEvent, BitVec.getLsbD_and, BitVec.getLsbD_not, decide_eq_true j.isLt, Bool.true_and]
  rw [hbit]
  split <;> simp [*]

/-! ### Load (R245) -/

theorem loadEvent_of_le {rom : List Byte} (s : State) (h : rom.length ≤ Config.maxRom) :
    loadEvent rom s = ({ s.writeBytes Config.progBase rom with loadStatus := .loaded }, .loaded) :=
  if_neg (Nat.not_lt.2 h)

theorem loadEvent_of_gt {rom : List Byte} (s : State) (h : Config.maxRom < rom.length) :
    loadEvent rom s = ({ s with loadStatus := .rejected }, .rejected) := if_pos h

theorem loadEvent_loaded_iff (rom : List Byte) (s : State) :
    (loadEvent rom s).1.loadStatus = .loaded ↔ rom.length ≤ Config.maxRom := by
  rcases Nat.lt_or_ge Config.maxRom rom.length with h | h
  · rw [loadEvent_of_gt s h]
    exact ⟨LoadStatus.noConfusion, fun hle => absurd h (Nat.not_lt.2 hle)⟩
  · rw [loadEvent_of_le s h]
    exact ⟨fun _ => h, fun _ => rfl⟩

/-- Load, accepted or rejected, changes memory and LOAD_STATUS alone. -/
theorem loadEvent_frame (rom : List Byte) (s : State) :
    ∃ m l, (loadEvent rom s).1 = { s with mem := m, loadStatus := l } := by
  rcases Nat.lt_or_ge Config.maxRom rom.length with h | h
  · exact ⟨_, _, congrArg Prod.fst (loadEvent_of_gt s h)⟩
  · exact ⟨_, _, congrArg Prod.fst (loadEvent_of_le s h)⟩

theorem deliver_load_state {rom : List Byte} {s t : State} {res : EventResult}
    (h : deliver (.load rom) s = .next (t, res)) : t = (loadEvent rom s).1 :=
  (congrArg Prod.fst (Host.Outcome.next.inj h)).symm

/-! ### The faulted state (R233, R234) -/

/-- A tick from FAULTED returns Halted, and rand_in alone takes its input (40_cycle.md R108). -/
theorem deliver_instrTick_halted {s : State} (r : Draw) (h : s.runState = .faulted) :
    deliver (.instrTick r) s = .next ({ s with randIn := r }, .halted) :=
  instrTick_halted (s := { s with randIn := r }) h

theorem deliver_timerTick_of_faulted {s : State} (h : s.runState = .faulted) :
    deliver .timerTick s = .next (s, .frame s.display) := by
  rw [deliver, timerTickEvent_of_faulted h]

/-- In FAULTED every event but Reset changes at most KEYS, memory, LOAD_STATUS and rand_in. -/
theorem deliver_frame_of_faulted {e : Event} {s t : State} {res : EventResult} (hs : s.runState = .faulted)
    (he : e ≠ .reset) (h : deliver e s = .next (t, res)) :
    t = { s with keys := t.keys, mem := t.mem, loadStatus := t.loadStatus, randIn := t.randIn } := by
  cases e with
  | reset => exact absurd rfl he
  | load rom =>
    obtain ⟨m, l, hload⟩ := loadEvent_frame rom s
    rw [deliver_load_state h, hload]
  | instrTick r =>
    rw [deliver_instrTick_halted r hs] at h
    cases h; rfl
  | timerTick =>
    rw [deliver_timerTick_of_faulted hs] at h
    cases h; rfl
  | keyDown k => cases h; rfl
  | keyUp k => cases h; rfl

/-! ### The statements -/

/-- Settles O47: the frame of every event but Reset gives the run state and the record; KeyDown, KeyUp, Load and Reset
do in FAULTED what they do in any state. -/
theorem faultedStateEvents : Obligations.FaultedStateEvents := by
  intro s hs
  refine ⟨fun r => deliver_instrTick_halted r hs, deliver_timerTick_of_faulted hs, fun e t res he h => ?frame,
    fun k t res h => ?down, fun k t res h => ?up, fun rom t res h => ?load, fun t res h => ?reset⟩
  case frame =>
    have hframe := deliver_frame_of_faulted hs he h
    exact ⟨(congrArg State.runState hframe).trans hs, hframe⟩
  case down => cases h; rw [keyDownEvent_key, if_pos rfl]
  case up => cases h; rw [keyUpEvent_key, if_pos rfl]
  case load =>
    rw [deliver_load_state h]
    exact loadEvent_loaded_iff rom s
  case reset => cases h; rfl

/-- Settles O51: an accepted image is one run of bytes written at 0x200, which ends inside the 4096 bytes. -/
theorem loadCopiesOrRejects : Obligations.LoadCopiesOrRejects := by
  intro rom s hm
  refine ⟨fun hle => ?accepted, fun hgt => congrArg Host.Outcome.next (loadEvent_of_gt s hgt)⟩
  case accepted =>
    have hfits : Config.progBase + rom.length ≤ Config.memSize := Nat.add_le_add_left hle 0x200
    exact ⟨_, congrArg Host.Outcome.next (loadEvent_of_le s hle), fun k hk => State.read_writeBytes hm rom hfits hk,
      fun a ha => State.read_writeBytes_other s rom ha, rfl, rfl⟩

/-- Settles O49: in RUNNING the event counts both timers down, in FAULTED it is the identity. -/
theorem timerTickCountsDown : Obligations.TimerTickCountsDown := by
  intro s
  refine ⟨timerTickEvent s, rfl, timerTickEvent_frame s, fun hrun => ?running, fun hfaulted => ?faulted⟩
  case running =>
    rw [timerTickEvent_of_running hrun]
    exact ⟨countDown_toNat s.dt, countDown_toNat s.st⟩
  case faulted =>
    rw [timerTickEvent_of_faulted hfaulted]
    exact ⟨rfl, rfl⟩

/-- Settles O50: both events are one update of KEYS, read bit by bit. -/
theorem keyEventsSetOneKey : Obligations.KeyEventsSetOneKey := by
  intro k s
  exact ⟨⟨keyDownEvent k s, rfl, fun j => keyDownEvent_key j k s, rfl⟩,
    ⟨keyUpEvent k s, rfl, fun j => keyUpEvent_key j k s, rfl⟩⟩

end Sys2Proof.Machine
end

section
/-! SUPPORT. The decoder and the opcode map (30_encoding.md): the round trip of every instruction, the row a word hits,
and the word an instruction was decoded from. -/

namespace Sys2Proof

open Sys2Proof.Laws

/-! ### From an instruction to its bytes and back -/

/-- The round trip of every instruction, each constructor by its own lemma. -/
theorem Laws.RoundTrip.statement : ∀ i : Instr, RoundTrip.Statement i
  | .cls => RoundTrip.cls
  | .ret => RoundTrip.ret
  | .jpNnn nnn => RoundTrip.jpNnn nnn
  | .callNnn nnn => RoundTrip.callNnn nnn
  | .seVxNn x nn => RoundTrip.seVxNn x nn
  | .sneVxNn x nn => RoundTrip.sneVxNn x nn
  | .seVxVy x y => RoundTrip.seVxVy x y
  | .ldVxNn x nn => RoundTrip.ldVxNn x nn
  | .addVxNn x nn => RoundTrip.addVxNn x nn
  | .ldVxVy x y => RoundTrip.ldVxVy x y
  | .orVxVy x y => RoundTrip.orVxVy x y
  | .andVxVy x y => RoundTrip.andVxVy x y
  | .xorVxVy x y => RoundTrip.xorVxVy x y
  | .addVxVy x y => RoundTrip.addVxVy x y
  | .subVxVy x y => RoundTrip.subVxVy x y
  | .shrVxVy x y => RoundTrip.shrVxVy x y
  | .subnVxVy x y => RoundTrip.subnVxVy x y
  | .shlVxVy x y => RoundTrip.shlVxVy x y
  | .sneVxVy x y => RoundTrip.sneVxVy x y
  | .ldINnn nnn => RoundTrip.ldINnn nnn
  | .jpV0Nnn nnn => RoundTrip.jpV0Nnn nnn
  | .rndVxNn x nn => RoundTrip.rndVxNn x nn
  | .drwVxVyN x y n => RoundTrip.drwVxVyN x y n
  | .skpVx x => RoundTrip.skpVx x
  | .sknpVx x => RoundTrip.sknpVx x
  | .ldVxDt x => RoundTrip.ldVxDt x
  | .ldVxK x => RoundTrip.ldVxK x
  | .ldDtVx x => RoundTrip.ldDtVx x
  | .ldStVx x => RoundTrip.ldStVx x
  | .addIVx x => RoundTrip.addIVx x
  | .ldFVx x => RoundTrip.ldFVx x
  | .ldBVx x => RoundTrip.ldBVx x
  | .ldMemIVx x => RoundTrip.ldMemIVx x
  | .ldVxMemI x => RoundTrip.ldVxMemI x
  | .unmapped op => RoundTrip.unmapped op

theorem decodeWord_encodeWord {i : Instr} (h : i.wellFormed = true) : decodeWord (encodeWord i) = i :=
  (RoundTrip.statement i).decodeWord_encodeWord h

/-- The decoder reads two bytes and leaves the rest. -/
theorem decode_encode_append (i : Instr) (rest : List Byte) :
    decode (encode i ++ rest) = .ok (decodeWord (encodeWord i), rest) := by
  simp [encode, wordBytes, decode]

/-- Settles O2: the two bytes are the opcode word's, which decodes to the instruction. -/
theorem decodeInvertsEncode : Obligations.DecodeInvertsEncode := by
  intro i rest h
  rw [decode_encode_append, decodeWord_encodeWord h]

/-- Settles O1: each list of bytes is evaluated by the decoder. -/
theorem writtenWordsDecode : Obligations.WrittenWordsDecode :=
  ⟨rfl, rfl, rfl, rfl, rfl, rfl, rfl, rfl, rfl, rfl, rfl⟩

/-! ### From a hit row to the decoded instruction (R73, R74) -/

/-- A hit on a row that fixes T alone gives the word's T. -/
theorem fieldT_of_hits {v w : Word} (h : OpcodeRow.hits ⟨0xF000, v⟩ w = true) : fieldT w = fieldT v := by
  have hv : w &&& 0xF000 = v := beq_iff_eq.1 h
  rw [← hv, and_F000, fieldT_wordTNNN]

/-- A hit on a row that fixes T and N gives both. -/
theorem fieldTN_of_hits {v w : Word} (h : OpcodeRow.hits ⟨0xF00F, v⟩ w = true) :
    fieldT w = fieldT v ∧ fieldN w = fieldN v := by
  have hv : w &&& 0xF00F = v := beq_iff_eq.1 h
  rw [← hv, and_F00F, fieldT_wordTXYN, fieldN_wordTXYN]
  exact ⟨rfl, rfl⟩

/-- A hit on a row that fixes T and NN gives both. -/
theorem fieldTNN_of_hits {v w : Word} (h : OpcodeRow.hits ⟨0xF0FF, v⟩ w = true) :
    fieldT w = fieldT v ∧ fieldNN w = fieldNN v := by
  have hv : w &&& 0xF0FF = v := beq_iff_eq.1 h
  rw [← hv, and_F0FF, fieldT_wordTXNN, fieldNN_wordTXNN]
  exact ⟨rfl, rfl⟩

/-- The decoder examines only fields that the row's mask covers, so a word that hits a row decodes to its instruction. -/
theorem decodeWord_row_of_hits {w : Word} {k : Nat} {r : OpcodeRow} (hk : opcodeMap[k]? = some r)
    (h : r.hits w = true) : (decodeWord w).row = some k := by
  match k, hk with
  | 0, rfl | 1, rfl => rw [(hits_word _ w).1 h]; rfl
  | 2, rfl | 3, rfl | 4, rfl | 5, rfl | 6, rfl | 7, rfl | 8, rfl | 18, rfl | 19, rfl | 20, rfl | 21, rfl | 22, rfl =>
    rw [decodeWord, fieldT_of_hits h]; rfl
  | 9, rfl | 10, rfl | 11, rfl | 12, rfl | 13, rfl | 14, rfl | 15, rfl | 16, rfl | 17, rfl =>
    obtain ⟨hT, hN⟩ := fieldTN_of_hits h
    rw [decodeWord, decodeAlu, hT, hN]; rfl
  | 23, rfl | 24, rfl =>
    obtain ⟨hT, hNN⟩ := fieldTNN_of_hits h
    rw [decodeWord, decodeKeys, hT, hNN]; rfl
  | 25, rfl | 26, rfl | 27, rfl | 28, rfl | 29, rfl | 30, rfl | 31, rfl | 32, rfl | 33, rfl =>
    obtain ⟨hT, hNN⟩ := fieldTNN_of_hits h
    rw [decodeWord, decodeMisc, hT, hNN]; rfl

/-- A word hits exactly the row of its instruction. -/
theorem hits_iff_row {w : Word} {k : Nat} {r : OpcodeRow} (hk : opcodeMap[k]? = some r) :
    r.hits w = true ↔ (decodeWord w).row = some k := by
  refine ⟨decodeWord_row_of_hits hk, fun hrow => ?_⟩
  obtain ⟨r', hk', hhits⟩ := decodeWord_row_hits hrow
  rw [hk] at hk'
  cases hk'
  exact hhits

/-- A word is unmapped exactly where its instruction has no row. -/
theorem unmappedWord_iff_row {w : Word} : unmappedWord w = true ↔ (decodeWord w).row = none := by
  constructor
  · intro h
    rw [decodeWord_of_unmapped h]; rfl
  · intro hnone
    refine List.all_eq_true.2 fun r hr => ?_
    obtain ⟨k, hk⟩ := List.mem_iff_getElem?.1 hr
    rw [Bool.not_eq_true', ← Bool.not_eq_true, hits_iff_row hk, hnone]
    exact Option.some_ne_none k ∘ Eq.symm

/-- Settles O3: a hit row is the decoded instruction's, so a word that hits none has no row and decodes to itself. -/
theorem decodeFollowsOpcodeMap : Obligations.DecodeFollowsOpcodeMap := by
  refine ⟨fun w k r hk => hits_iff_row hk, fun w => ?unmapped⟩
  case unmapped =>
    have hall : unmappedWord w = true ↔ ∀ r ∈ opcodeMap, r.hits w = false := by
      simp [unmappedWord]
    rw [← hall]
    exact ⟨decodeWord_of_unmapped, fun h => unmappedWord_iff_row.2 (by rw [h]; rfl)⟩

/-! ### From a word to its instruction and back (R71 to R73) -/

theorem wellFormed_of_row {i : Instr} {k : Nat} (h : i.row = some k) : i.wellFormed = true := by
  cases i with
  | unmapped op => cases h
  | _ => rfl

theorem wellFormed_decodeWord (w : Word) : (decodeWord w).wellFormed = true := by
  cases hrow : (decodeWord w).row with
  | some k => exact wellFormed_of_row hrow
  | none =>
    rw [decodeWord_of_row_none hrow]
    exact unmappedWord_iff_row.2 hrow

theorem encodeWord_decodeZero {w : Word} (hT : fieldT w = 0) : encodeWord (decodeZero w) = w := by
  have hw := word_eq_wordTNNN w
  rw [hT] at hw
  unfold decodeZero
  split
  case isTrue hcls => rw [hcls] at hw; exact hw.symm
  case isFalse =>
    split
    case isTrue hret => rw [hret] at hw; exact hw.symm
    case isFalse => rfl

theorem encodeWord_decodeAlu {w : Word} (hT : fieldT w = 8) : encodeWord (decodeAlu w) = w := by
  have hw := word_eq_wordTXYN w
  unfold decodeAlu
  split
  case h_10 => rfl
  all_goals
    rename_i hN
    rw [hT, ofNat_of_toNat hN] at hw
    exact hw.symm

theorem encodeWord_decodeKeys {w : Word} (hT : fieldT w = 14) : encodeWord (decodeKeys w) = w := by
  have hw := word_eq_wordTXNN w
  rw [hT] at hw
  unfold decodeKeys
  split
  case isTrue hskp => rw [hskp] at hw; exact hw.symm
  case isFalse =>
    split
    case isTrue hsknp => rw [hsknp] at hw; exact hw.symm
    case isFalse => rfl

theorem encodeWord_decodeMisc {w : Word} (hT : fieldT w = 15) : encodeWord (decodeMisc w) = w := by
  have hw := word_eq_wordTXNN w
  unfold decodeMisc
  split
  case h_10 => rfl
  all_goals
    rename_i hNN
    rw [hT, ofNat_of_toNat hNN] at hw
    exact hw.symm

/-- The mask 0xFFF0 sets N to 0. -/
theorem and_FFF0 (w : Word) : w &&& 0xFFF0 = wordTXYN (fieldT w) (fieldX w) (fieldY w) 0 := by
  have hx : BitVec.ofFin (w := 4) (fieldX w) = w.extractLsb' 8 4 := rfl
  have hy : BitVec.ofFin (w := 4) (fieldY w) = w.extractLsb' 4 4 := rfl
  apply BitVec.eq_of_getLsbD_eq; intro j hj
  rw [getLsbD_wordTXYN, hx, hy]
  interval_cases j <;> simp [fieldT]

/-- Re-encoding a decoded word gives it back, but for the nibble that 5XYN and 9XYN do not examine. -/
theorem encodeWord_decodeWord (w : Word) :
    encodeWord (decodeWord w) = if fieldT w = 5 ∨ fieldT w = 9 then w &&& 0xFFF0 else w := by
  have hnnn := word_eq_wordTNNN w
  have hnn := word_eq_wordTXNN w
  have hn := word_eq_wordTXYN w
  unfold decodeWord
  split
  case h_1 hT =>
    have hT := ofNat_of_toNat hT
    rw [encodeWord_decodeZero hT, hT]; rfl
  case h_6 hT | h_10 hT =>
    have hT := ofNat_of_toNat hT
    rw [and_FFF0, hT]; rfl
  case h_9 hT =>
    have hT := ofNat_of_toNat hT
    rw [encodeWord_decodeAlu hT, hT]; rfl
  case h_15 hT =>
    have hT := ofNat_of_toNat hT
    rw [encodeWord_decodeKeys hT, hT]; rfl
  case h_16 =>
    have hT : fieldT w = 15 := by
      refine eq_fifteen ?_ ?_ ?_ ?_ ?_ ?_ ?_ ?_ ?_ ?_ ?_ ?_ ?_ ?_ ?_ <;> assumption
    rw [encodeWord_decodeMisc hT, hT]; rfl
  case h_2 hT | h_3 hT | h_11 hT | h_12 hT =>
    have hT := ofNat_of_toNat hT
    rw [hT] at hnnn ⊢
    exact hnnn.symm
  case h_4 hT | h_5 hT | h_7 hT | h_8 hT | h_13 hT =>
    have hT := ofNat_of_toNat hT
    rw [hT] at hnn ⊢
    exact hnn.symm
  case h_14 hT =>
    have hT := ofNat_of_toNat hT
    rw [hT] at hn ⊢
    exact hn.symm

/-- Settles O4: what is decoded is well formed, and no bit but the unexamined nibble is lost. -/
theorem decodedWordEncodesBack : Obligations.DecodedWordEncodesBack := fun w =>
  ⟨wellFormed_decodeWord w, encodeWord_decodeWord w⟩

end Sys2Proof
end

section
/-! SUPPORT. The legal states (10_state.md, 60_exceptions.md): each operation on the state keeps them, so every
instruction, every tick and every event does, and none of these stops the model. -/

namespace Sys2Proof.Machine

/-! ### What the invariant does not speak of -/

/-- The fields that no clause of the invariant reads may hold anything. -/
theorem State.Inv.of_frame {s t : State} (h : s.Inv) (ht : t = { s with
    v := t.v, dt := t.dt, st := t.st, display := t.display, keys := t.keys, unmappedCount := t.unmappedCount
    keyWait := t.keyWait, loadStatus := t.loadStatus, randIn := t.randIn, draws := t.draws, schedule := t.schedule
    lastResult := t.lastResult }) : t.Inv := by
  rw [ht]
  exact ⟨h.memWf, h.spRange, h.stackRange, h.pcRange, h.record, h.lastUnmapped⟩

/-- A run of bytes written inside the 4096 keeps a state legal, running or faulted. -/
theorem State.Inv.writeBytes {s : State} (h : s.Inv) {a : Nat} (bs : List Byte)
    (ha : a + bs.length ≤ Config.memSize) : (s.writeBytes a bs).Inv :=
  ⟨State.writeBytes_memWf h.memWf bs ha, h.spRange, h.stackRange, h.pcRange, h.record, h.lastUnmapped⟩

/-! ### Running legal states

Where no fault is held the record does not tie PC, I or SP down, so the instructions may write them. -/

/-- A legal state that is RUNNING. -/
structure State.Active (s : State) : Prop where
  inv : s.Inv
  running : s.runState = .running

namespace State.Active

variable {s t : State}

/-- A running legal state holds no fault (10_state.md R32). -/
theorem noFault (h : s.Active) : s.faultCause = .none ∧ s.faultPc = 0 ∧ s.faultAddr = 0 := by
  have hrecord := h.inv.record
  unfold State.recordOk at hrecord
  split at hrecord
  case h_1 hnone => exact ⟨hnone, hrecord.2⟩
  all_goals
    rw [h.running] at hrecord
    exact RunState.noConfusion hrecord.1

/-- An update that writes neither RUN_STATE nor the fault record keeps the record right. -/
theorem record_of_eq (h : s.Active) (hrun : t.runState = s.runState) (hcause : t.faultCause = s.faultCause)
    (hpc : t.faultPc = s.faultPc) (haddr : t.faultAddr = s.faultAddr) : t.recordOk := by
  obtain ⟨hcause', hpc', haddr'⟩ := h.noFault
  rw [State.recordOk, hcause, hcause']
  exact ⟨hrun.trans h.running, hpc.trans hpc', haddr.trans haddr'⟩

theorem setReg (h : s.Active) (r : Reg) (b : Byte) : (s.setReg r b).Active := ⟨h.inv.of_frame rfl, h.running⟩

theorem setPc (h : s.Active) {w : Word} (hw : w.toNat ≤ 0x10FE) : (s.setPc w).Active :=
  ⟨⟨h.inv.memWf, h.inv.spRange, h.inv.stackRange, hw, h.record_of_eq rfl rfl rfl rfl, h.inv.lastUnmapped⟩, h.running⟩

theorem setI (h : s.Active) (w : Word) : (s.setI w).Active :=
  ⟨⟨h.inv.memWf, h.inv.spRange, h.inv.stackRange, h.inv.pcRange, h.record_of_eq rfl rfl rfl rfl,
    h.inv.lastUnmapped⟩, h.running⟩

/-- A push with an entry free keeps SP in 0..16, and the pushed word is in the range of the entries. -/
theorem push (h : s.Active) {w : Word} (hsp : s.sp.toNat < 16) (hw : w.toNat ≤ 0x1000) : (s.push w).Active := by
  refine ⟨⟨h.inv.memWf, ?sp, ?stack, h.inv.pcRange, h.record_of_eq rfl rfl rfl rfl, h.inv.lastUnmapped⟩, h.running⟩
  case sp => rw [State.push_sp_toNat w hsp]; exact hsp
  case stack =>
    intro k
    by_cases hk : k.val = s.sp.toNat
    · have htop : (s.push w).stack[k.val] = w := by
        simp only [State.push_stack, hk, Vector.getElem_setIfInBounds_self]
      rw [htop]; exact hw
    · rw [State.push_stack_of_ne w hk]; exact h.inv.stackRange k

theorem pop (h : s.Active) (hsp : s.sp ≠ 0) : s.pop.Active := by
  refine ⟨⟨h.inv.memWf, ?sp, h.inv.stackRange, h.inv.pcRange, h.record_of_eq rfl rfl rfl rfl, h.inv.lastUnmapped⟩,
    h.running⟩
  case sp =>
    rw [State.pop_sp_toNat (Nat.pos_of_ne_zero (BitVec.toNat_ne.1 hsp))]
    exact (Nat.sub_le _ _).trans h.inv.spRange

theorem countUnmapped (h : s.Active) {op : Word} (hop : unmappedWord op = true) : (s.countUnmapped op).Active :=
  ⟨⟨h.inv.memWf, h.inv.spRange, h.inv.stackRange, h.inv.pcRange, h.record_of_eq rfl rfl rfl rfl, hop⟩, h.running⟩

/-- Fault entry at an address in PC's range, with a record that is right, gives a legal state. -/
theorem enterFault (h : s.Active) {a : Word} {c : FaultCause} {d : Word} (ha : a.toNat ≤ 0x10FE)
    (hrecord : (s.enterFault a c d).recordOk) : (s.enterFault a c d).Inv :=
  ⟨h.inv.memWf, h.inv.spRange, h.inv.stackRange, ha, hrecord, h.inv.lastUnmapped⟩

end State.Active

/-! ### Addresses in PC's range (10_state.md R23) -/

theorem addr12_le (nnn : BitVec 12) : (addr12 nnn).toNat ≤ 0x10FE := by
  have hlt := nnn.isLt
  rw [addr12_toNat]
  omega

/-- "PC may hold values up to 0x10FE": 0xFFF + 0xFF is the largest target of BNNN. -/
theorem addr12_add_regWord_le (nnn : BitVec 12) (s : State) (r : Reg) : (addr12 nnn + s.regWord r).toNat ≤ 0x10FE := by
  have hnnn := nnn.isLt
  have hreg := (s.reg r).isLt
  rw [addr12_add_regWord_toNat]
  omega

/-! ### Instructions

An instruction runs with PC advanced past its two bytes, so PC is in 2..0x1000. -/

section Instructions

variable {s t : State}

theorem pc_sub_two_le (hlo : 2 ≤ s.pc.toNat) (hhi : s.pc.toNat ≤ 0x1000) : (s.pc - 2).toNat ≤ 0x10FE := by
  have hsub : (s.pc - 2).toNat = s.pc.toNat - 2 := BitVec.toNat_sub_of_le (BitVec.le_def.2 hlo)
  omega

theorem skipIf_keeps_legal {c : Bool} (hs : s.Active) (hhi : s.pc.toNat ≤ 0x1000) (h : skipIf c s = .next t) :
    t.Inv := by
  rcases skipIf_cases h with ⟨-, rfl⟩ | ⟨-, rfl⟩
  · have hskip : (s.pc + 2).toNat = s.pc.toNat + 2 :=
      BitVec.toNat_add_of_lt (show s.pc.toNat + 2 < 2 ^ 16 by omega)
    exact (hs.setPc (by omega)).inv
  · exact hs.inv

/-- The address of MEM_OOB is above 0xFFF and not below I, whatever I is. -/
theorem withRange_keeps_legal {n : Nat} {body : State} (hs : s.Active) (hpc : (s.pc - 2).toNat ≤ 0x10FE)
    (hbody : n = 0 ∨ s.i.toNat + n - 1 ≤ 0xFFF → body.Inv) (h : withRange n s body = .next t) : t.Inv := by
  rcases withRange_cases h with ⟨hin, rfl⟩ | ⟨-, -, rfl⟩
  · exact hbody hin
  · refine hs.enterFault hpc ⟨rfl, rfl, ?high, ?notBelow⟩
    case high => rw [State.enterFault_faultAddr, firstBad_toNat]; omega
    case notBelow => rw [BitVec.le_def, State.enterFault_faultAddr, firstBad_toNat]; exact Nat.le_max_left _ _

/-- Every instruction keeps a running state legal, or raises a fault whose record is right. -/
theorem exec_keeps_legal {i : Instr} (hs : s.Active) (hlo : 2 ≤ s.pc.toNat) (hhi : s.pc.toNat ≤ 0x1000)
    (hi : i.wellFormed = true) (h : exec i s = .next t) : t.Inv := by
  have hback := pc_sub_two_le hlo hhi
  cases i
  case jpNnn nnn => cases h; exact (hs.setPc (addr12_le nnn)).inv
  case jpV0Nnn nnn => cases h; exact (hs.setPc (addr12_add_regWord_le nnn s 0)).inv
  case callNnn nnn =>
    rcases execCallNnn_cases h with ⟨hsp, rfl⟩ | ⟨hsp, rfl⟩
    · exact ((hs.push hsp hhi).setPc (addr12_le nnn)).inv
    · exact hs.enterFault hback ⟨rfl, rfl, rfl, BitVec.eq_of_toNat_eq hsp⟩
  case ret =>
    rcases execRet_cases h with ⟨hsp, hk, rfl⟩ | ⟨hsp, rfl⟩
    · have htarget := hs.inv.stackRange ⟨_, hk⟩
      exact ((hs.pop hsp).setPc (htarget.trans (by decide))).inv
    · exact hs.enterFault hback ⟨rfl, rfl, rfl, hsp⟩
  case seVxNn | sneVxNn | seVxVy | sneVxVy | skpVx | sknpVx => exact skipIf_keeps_legal hs hhi h
  case ldVxK x =>
    rcases execLdVxK_cases h with ⟨-, rfl⟩ | ⟨k, -, -, -, rfl⟩
    · exact (hs.setPc hback).inv.of_frame rfl
    · exact (hs.setReg x _).inv
  case ldINnn | addIVx | ldFVx => cases h; exact (hs.setI _).inv
  case drwVxVyN => exact withRange_keeps_legal hs hback (fun _ => hs.inv.of_frame rfl) h
  case ldBVx x =>
    refine withRange_keeps_legal hs hback (fun hin => hs.inv.writeBytes _ ?_) h
    rw [length_bcdDigits, Config.memSize]
    omega
  case ldMemIVx x =>
    refine withRange_keeps_legal hs hback (fun hin => hs.inv.writeBytes _ ?_) h
    rw [length_take_regs, Config.memSize]
    omega
  case ldVxMemI x =>
    refine withRange_keeps_legal hs hback (fun _ => ?_) h
    rw [State.setRegs_frame]
    exact hs.inv.of_frame rfl
  case unmapped op => cases h; exact (hs.countUnmapped hi).inv
  all_goals
    cases h
    exact hs.inv.of_frame rfl

theorem withRange_next (n : Nat) (s body : State) : ∃ u, withRange n s body = .next u := by
  unfold withRange
  split <;> exact ⟨_, rfl⟩

/-- With SP in its range every instruction answers a next state. -/
theorem exec_next (i : Instr) (hsp : s.sp.toNat ≤ 16) : ∃ u, exec i s = .next u := by
  cases i
  case callNnn nnn =>
    rcases Nat.lt_or_eq_of_le hsp with hlt | heq
    · exact ⟨_, execCallNnn_push hlt⟩
    · exact ⟨_, execCallNnn_overflow heq⟩
  case ret =>
    by_cases h0 : s.sp = 0
    · exact ⟨_, execRet_underflow h0⟩
    · exact ⟨_, execRet_pop h0 (by omega)⟩
  case ldVxK x =>
    by_cases hkeys : s.keys = 0
    · exact ⟨_, execLdVxK_of_no_key hkeys⟩
    · obtain ⟨k, -, hexec⟩ := execLdVxK_of_key (x := x) hkeys
      exact ⟨_, hexec⟩
  case drwVxVyN | ldBVx | ldMemIVx | ldVxMemI => exact withRange_next _ _ _
  all_goals exact ⟨_, rfl⟩

end Instructions

/-! ### Ticks and events -/

/-- The end of a tick leaves the instruction's state, with KEY_WAIT perhaps cleared. -/
theorem finishTick_state (op : Word) (s1 s2 : State) :
    (finishTick op s1 s2).1 = s2 ∨ (finishTick op s1 s2).1 = s2.setKeyWait false := by
  cases h : s2.runState with
  | faulted => rw [finishTick_faulted h]; exact .inl rfl
  | running =>
    rw [finishTick_running h]
    split
    · exact .inl rfl
    · exact .inr rfl

theorem instrTick_keeps_legal {s t : State} {res : EventResult} (hs : s.Inv) (h : instrTick s = .next (t, res)) :
    t.Inv := by
  rcases instrTick_cases h with ⟨-, rfl, -⟩ | ⟨hrun, hfetch, rfl, -⟩ | ⟨hrun, op, s2, hfetch, hexec, hfin⟩
  · exact hs
  · have hpc := fetch_none.1 hfetch
    exact State.Active.enterFault ⟨hs, hrun⟩ hs.pcRange ⟨rfl, rfl, rfl, Nat.le_of_lt_succ hpc⟩
  · obtain ⟨hpc, -⟩ := fetch_some hfetch
    have hadvanced : (s.pc + 2).toNat = s.pc.toNat + 2 :=
      BitVec.toNat_add_of_lt (show s.pc.toNat + 2 < 2 ^ 16 by omega)
    have hs1 : (s.setPc (s.pc + 2)).Active := State.Active.setPc ⟨hs, hrun⟩ (by omega)
    have hs2 : s2.Inv := exec_keeps_legal hs1 (by rw [State.setPc_pc]; omega) (by rw [State.setPc_pc]; omega)
      (wellFormed_decodeWord op) hexec
    obtain rfl : (finishTick op _ s2).1 = t := congrArg Prod.fst hfin
    rcases finishTick_state op (s.setPc (s.pc + 2)) s2 with hkept | hcleared
    · rw [hkept]; exact hs2
    · rw [hcleared]; exact hs2.of_frame rfl

theorem instrTick_next {s : State} (hsp : s.sp.toNat ≤ 16) : ∃ p, instrTick s = .next p := by
  cases hrun : s.runState with
  | faulted => exact ⟨_, instrTick_halted hrun⟩
  | running =>
    cases hfetch : fetch s with
    | none => exact ⟨_, instrTick_fetch_none hrun hfetch⟩
    | some op =>
      obtain ⟨u, hexec⟩ := exec_next (s := s.setPc (s.pc + 2)) (decodeWord op) hsp
      exact ⟨_, instrTick_run hrun hfetch hexec⟩

/-- `Reset` gives a legal state whatever the state was: no byte listed, SP 0, PC 0x200, no fault. -/
theorem resetEvent_legal (s : State) : (resetEvent s).Inv where
  memWf := ⟨List.Pairwise.nil, fun _ hp => absurd hp List.not_mem_nil⟩
  spRange := Nat.zero_le 16
  stackRange := fun k => by rw [resetEvent_stack]; exact Nat.zero_le _
  pcRange := (by decide : State.reset.pc.toNat ≤ 0x10FE)
  record := ⟨rfl, rfl, rfl⟩
  lastUnmapped := (by decide : unmappedWord State.reset.lastUnmapped = true)

/-- Settles O57: the state after reset is what `Reset` leaves in it. -/
theorem resetStateIsLegal : Obligations.ResetStateIsLegal := resetEvent_legal State.reset

theorem loadEvent_keeps_legal {s : State} (rom : List Byte) (hs : s.Inv) : (loadEvent rom s).1.Inv := by
  rcases Nat.lt_or_ge Config.maxRom rom.length with h | h
  · rw [loadEvent_of_gt s h]
    exact hs.of_frame rfl
  · have hfits : Config.progBase + rom.length ≤ Config.memSize := Nat.add_le_add_left h 0x200
    rw [loadEvent_of_le s h]
    exact (hs.writeBytes rom hfits).of_frame rfl

theorem deliver_keeps_legal {e : Event} {s t : State} {res : EventResult} (hs : s.Inv)
    (h : deliver e s = .next (t, res)) : t.Inv := by
  cases e with
  | reset => cases h; exact resetEvent_legal s
  | load rom => rw [deliver_load_state h]; exact loadEvent_keeps_legal rom hs
  | instrTick r => exact instrTick_keeps_legal (s := { s with randIn := r }) (hs.of_frame rfl) h
  | timerTick =>
    cases h
    rw [timerTickEvent_frame]
    exact hs.of_frame rfl
  | keyDown k => cases h; exact hs.of_frame rfl
  | keyUp k => cases h; exact hs.of_frame rfl

/-- With SP in its range every event is answered. -/
theorem deliver_next (e : Event) {s : State} (hsp : s.sp.toNat ≤ 16) : ∃ p, deliver e s = .next p := by
  cases e with
  | instrTick r => exact instrTick_next (s := { s with randIn := r }) hsp
  | _ => exact ⟨_, rfl⟩

/-! ### Steps -/

/-- Taking the event that is due changes the schedule and the count of free values alone. -/
theorem nextEvent_frame (s : State) :
    (nextEvent s).2 = { s with schedule := (nextEvent s).2.schedule, draws := (nextEvent s).2.draws } := by
  unfold nextEvent
  split <;> rfl

theorem nextEvent_keeps_legal {s : State} (hs : s.Inv) : (nextEvent s).2.Inv := by
  rw [nextEvent_frame]
  exact hs.of_frame rfl

/-- Where the due event is answered, the step records its result. -/
theorem step_of_deliver {s t : State} {r : EventResult} (h : deliver (nextEvent s).1 (nextEvent s).2 = .next (t, r)) :
    step s = .next { t with lastResult := r } := by
  rw [step, stepEvent, h]; rfl

/-- Settles O58: the due event keeps the state legal, and its result is recorded in a field no clause reads. -/
theorem stepKeepsLegal : Obligations.StepKeepsLegal := by
  intro s t hs h
  obtain ⟨u, r, hdeliver, rfl⟩ := step_cases h
  exact (deliver_keeps_legal (nextEvent_keeps_legal hs) hdeliver).of_frame rfl

/-- Settles O59: SP in 0..16 is the clause of the invariant that shuts the model's own stop out. -/
theorem legalStepsNeverStop : Obligations.LegalStepsNeverStop := by
  intro s hs
  obtain ⟨⟨t, r⟩, hdeliver⟩ := deliver_next (nextEvent s).1 (nextEvent_keeps_legal hs).spRange
  exact ⟨_, step_of_deliver hdeliver⟩

end Sys2Proof.Machine
end

section
/-! SUPPORT. What an instruction leaves unchanged (10_state.md R37): the fault state, the registers, memory, and all other
state. -/

namespace Sys2Proof.Machine

/-! ### The fault state (60_exceptions.md R231) -/

/-- A row of R230's table is one of a listed instruction. -/
theorem Raises.mayRaise {i : Instr} {s : State} {c : FaultCause} {a : Word} (h : Raises i s c a) :
    i.mayRaise = true := by
  rcases h with ⟨-, -, h⟩ | ⟨-, -, -, nnn, rfl⟩ | ⟨-, -, -, rfl⟩
  · rcases h with ⟨x, y, n, rfl, -⟩ | ⟨x, rfl, -⟩ | ⟨x, rfl, -⟩ | ⟨x, rfl, -⟩ <;> rfl
  · rfl
  · rfl

/-- Settles O46: an instruction writes the fault state only where it raises, and then it is a listed one. -/
theorem onlyListedInstructionsRaise : Obligations.OnlyListedInstructionsRaise := by
  intro i s t hi h
  rcases exec_cases i s t h with hframe | ⟨c, a, -, hraises⟩
  · rw [hframe]
    exact ⟨rfl, rfl, rfl, rfl⟩
  · rw [hraises.mayRaise] at hi
    cases hi

/-! ### Registers (10_state.md R21, R37) -/

/-- A ranged access that leaves a register alone in range does so out of range, where it raises. -/
theorem withRange_reg {n : Nat} {s body t : State} {r : Reg} (h : withRange n s body = .next t)
    (hbody : body.reg r = s.reg r) : t.reg r = s.reg r := by
  rcases withRange_cases h with ⟨-, rfl⟩ | ⟨-, -, rfl⟩
  · exact hbody
  · rfl

theorem skipIf_reg {c : Bool} {s t : State} (r : Reg) (h : skipIf c s = .next t) : t.reg r = s.reg r := by
  rcases skipIf_cases h with ⟨-, rfl⟩ | ⟨-, rfl⟩ <;> rfl

/-- A flag write and then a result write leave every other register alone. -/
theorem reg_setReg_setReg_other (s : State) {a b r : Reg} (p q : Byte) (ha : r ≠ a) (hb : r ≠ b) :
    ((s.setReg a p).setReg b q).reg r = s.reg r := by
  rw [State.reg_setReg_other _ _ hb, State.reg_setReg_other _ _ ha]

/-- Settles O54: a register that is not the destination named, nor VF where the flag is written, is none of those the
instruction's writes go to. -/
theorem registerFrame : Obligations.RegisterFrame := by
  intro i s t r h hr
  simp only [Instr.mayWriteReg, Bool.or_eq_false_iff, Bool.and_eq_false_imp, beq_eq_false_iff_ne] at hr
  obtain ⟨hdest, hflag⟩ := hr
  cases i
  case ldVxNn | addVxNn | ldVxVy | orVxVy | andVxVy | xorVxVy | rndVxNn | ldVxDt =>
    cases h
    exact State.reg_setReg_other s _ (beq_eq_false_iff_ne.1 hdest)
  case addVxVy | subVxVy | shrVxVy | shlVxVy | subnVxVy =>
    cases h
    exact reg_setReg_setReg_other s _ _ (hflag rfl) (beq_eq_false_iff_ne.1 hdest)
  case drwVxVyN => exact withRange_reg h (State.reg_setReg_other _ _ (hflag rfl))
  case ldVxK x =>
    rcases execLdVxK_cases h with ⟨-, rfl⟩ | ⟨k, -, -, -, rfl⟩
    · rfl
    · exact State.reg_setReg_other s _ (beq_eq_false_iff_ne.1 hdest)
  case ldVxMemI x =>
    have hlt : x < r := Fin.not_le.1 (of_decide_eq_false hdest)
    exact withRange_reg h (State.reg_setRegs_readBytes_of_lt s _ hlt)
  case ldBVx | ldMemIVx => exact withRange_reg h rfl
  case seVxNn | sneVxNn | seVxVy | sneVxVy | skpVx | sknpVx => exact skipIf_reg r h
  case callNnn => rcases execCallNnn_cases h with ⟨-, rfl⟩ | ⟨-, rfl⟩ <;> rfl
  case ret => rcases execRet_cases h with ⟨-, -, rfl⟩ | ⟨-, rfl⟩ <;> rfl
  all_goals (cases h; rfl)

/-! ### Memory (20_memory.md R52) -/

/-- A store of `n` bytes at I changes no byte outside them, in range or raising. -/
theorem withRange_writeBytes_read {n : Nat} {s t : State} {bs : List Byte} {a : Nat} (hlen : bs.length = n)
    (ha : a < s.i.toNat ∨ s.i.toNat + n ≤ a) (h : withRange n s (s.writeBytes s.i.toNat bs) = .next t) :
    t.read a = s.read a := by
  rcases withRange_cases h with ⟨-, rfl⟩ | ⟨-, -, rfl⟩
  · exact State.read_writeBytes_other s bs (by rwa [hlen])
  · rfl

/-- Settles O55: FX33 and FX55 are stores at I; no other instruction writes memory. -/
theorem memoryFrame : Obligations.MemoryFrame := by
  intro i s t a h ha
  cases i
  case ldBVx x => exact withRange_writeBytes_read (length_bcdDigits _) ha h
  case ldMemIVx x => exact withRange_writeBytes_read (length_take_regs s x) ha h
  case ldVxMemI x =>
    rcases withRange_cases h with ⟨-, rfl⟩ | ⟨-, -, rfl⟩
    · exact State.setRegs_read s 0 _ a
    · rfl
  case drwVxVyN => rcases withRange_cases h with ⟨-, rfl⟩ | ⟨-, -, rfl⟩ <;> rfl
  case seVxNn | sneVxNn | seVxVy | sneVxVy | skpVx | sknpVx =>
    rcases skipIf_cases h with ⟨-, rfl⟩ | ⟨-, rfl⟩ <;> rfl
  case callNnn => rcases execCallNnn_cases h with ⟨-, rfl⟩ | ⟨-, rfl⟩ <;> rfl
  case ret => rcases execRet_cases h with ⟨-, -, rfl⟩ | ⟨-, rfl⟩ <;> rfl
  case ldVxK => rcases execLdVxK_cases h with ⟨-, rfl⟩ | ⟨k, -, -, -, rfl⟩ <;> rfl
  all_goals (cases h; rfl)

/-! ### All other state (10_state.md R37) -/

/-- Settles O56: an outcome that is none of the writers' leaves each field as it was, and a writer's outcome is excluded by
the field's hypothesis. -/
theorem otherStateFrame : Obligations.OtherStateFrame := by
  intro i s t h
  cases i
  case callNnn => rcases execCallNnn_cases h with ⟨-, rfl⟩ | ⟨-, rfl⟩ <;> simp
  case ret => rcases execRet_cases h with ⟨-, -, rfl⟩ | ⟨-, rfl⟩ <;> simp
  case ldVxK => rcases execLdVxK_cases h with ⟨-, rfl⟩ | ⟨k, -, -, -, rfl⟩ <;> simp
  case seVxNn | sneVxNn | seVxVy | sneVxVy | skpVx | sknpVx =>
    rcases skipIf_cases h with ⟨-, rfl⟩ | ⟨-, rfl⟩ <;> simp
  case drwVxVyN | ldBVx | ldMemIVx => rcases withRange_cases h with ⟨-, rfl⟩ | ⟨-, -, rfl⟩ <;> simp
  case ldVxMemI =>
    rcases withRange_cases h with ⟨-, rfl⟩ | ⟨-, -, rfl⟩
    · rw [State.setRegs_frame]; simp
    · simp
  all_goals
    cases h
    simp

end Sys2Proof.Machine
end

section
/-! SUPPORT. Instructions after one another, and the parameter SUBN_DEST: a call and its return, 8XY7 at the other
destination, a store and then a load or a fetch, and a sprite drawn twice. -/

namespace Sys2Proof.Machine

/-! ### A call and its return (41_control_flow.md R121, R123) -/

/-- Settles O16: with SP above 16 no entry is free to CALL and none stands below SP to RET. -/
theorem stackPointerOutOfRangeStops : Obligations.StackPointerOutOfRangeStops := by
  intro nnn s hsp
  constructor
  case left =>
    change execCallNnn nnn s = _
    rw [execCallNnn, if_neg (by simp only [Config.stackDepth]; omega), if_neg (by simp only [Config.stackDepth]; omega)]
  case right =>
    have hne : s.sp ≠ 0 := BitVec.toNat_ne.2 (Nat.ne_of_gt (Nat.zero_lt_of_lt hsp))
    have hnone : s.stack[s.sp.toNat - 1]? = none := Vector.getElem?_eq_none (by omega)
    change execRet s = _
    rw [execRet, if_neg hne, hnone]

/-- A pop undoes a push, but for the entry, which keeps the pushed word. -/
theorem State.pop_push (s : State) (w : Word) : (s.push w).pop = { s with stack := (s.push w).stack } := by
  have hsp : s.sp + 1 - 1 = s.sp := BitVec.add_sub_cancel s.sp 1
  rw [State.pop, State.push_sp, hsp]; rfl

theorem execRet_of_top {s : State} {w : Word} (h0 : s.sp ≠ 0) (htop : s.stack[s.sp.toNat - 1]? = some w) :
    execRet s = .next (s.pop.setPc w) := by
  rw [execRet, if_neg h0, htop]

/-- Settles O17: the entry below the new SP is the one the call wrote, whatever PC has become. -/
theorem callThenReturnRestores : Obligations.CallThenReturnRestores := by
  intro nnn p s t hsp h
  obtain ⟨-, rfl⟩ := (execCallNnn_cases h).resolve_right fun hfull => absurd hfull.1 (Nat.ne_of_lt hsp)
  have hnew := State.push_sp_toNat s.pc hsp
  have hne : (s.push s.pc).sp ≠ 0 := BitVec.toNat_ne.2 (hnew.trans_ne (Nat.succ_ne_zero _))
  have htop : (s.push s.pc).stack[(s.push s.pc).sp.toNat - 1]? = some s.pc := by
    rw [hnew, Nat.add_sub_cancel]
    exact State.push_stack_at_sp s.pc hsp
  have hpop := State.pop_push s s.pc
  have hback : (s.push s.pc).pop.sp = s.sp := by rw [hpop]
  have hframe : (s.push s.pc).pop.setPc s.pc = { s with stack := (s.push s.pc).stack } := by rw [hpop]; rfl
  exact ⟨_, execRet_of_top (s := (s.push s.pc).setPc p) hne htop, rfl, hback,
    fun k hk => State.push_stack_of_ne s.pc hk, hframe⟩

/-! ### 8XY7 and the parameter SUBN_DEST (42_alu.md R149, R153) -/

/-- Settles O26: the two instructions are the same two writes. -/
theorem reverseSubtractIsSwappedSubtract : Obligations.ReverseSubtractIsSwappedSubtract := fun _ _ _ =>
  execSubnVxVy_of_dest_y

/-- At the other value of SUBN_DEST, 8XY7 is a flag write and then a result write of `V[X]`, with the operands of the
comparison and of the difference exchanged. -/
theorem execSubnVxVy_of_dest_x {x y : Reg} {s : State} (h : s.params.subnDest = .x) :
    execSubnVxVy x y s = flagThenBinary (fun a b => greaterFlag b a) (fun a b => b - a) x y s := by
  rw [execSubnVxVy, h]; rfl

/-- Settles O25: the cases of X and Y against F are those of a flag write and then a result write. -/
theorem reverseSubtractParameterX : Obligations.ReverseSubtractParameterX := by
  refine ⟨rfl, fun x y s hdest => ?_⟩
  obtain ⟨t, ht, h⟩ := flagThenBinary_next (fun a b => greaterFlag b a) (fun a b => b - a) x y s
  refine ⟨t, (execSubnVxVy_of_dest_x hdest).trans ht, fun b hb => ?_, h.other, h.frame⟩
  rw [← greaterFlag_toNat] at hb
  refine ⟨fun hx hy => ⟨?diff, ?flag⟩, fun hx hy => ⟨?flagF, ?diffF⟩, fun hx hy => ?destF, fun hx hy => ?bothF⟩
  case diff => rw [h.neither hx hy, byte_sub_toNat]
  case flag | flagF => rw [h.flag hx, hb]
  case diffF => rw [h.second hx hy, byte_sub_toNat, hb]
  case destF => rw [h.first hx hy, byte_sub_toNat, hb]
  case bothF => rw [h.both hx hy, BitVec.sub_self]; rfl

/-! ### A store, and then a load or a fetch (43_index_memory.md R174, R175; 20_memory.md R62) -/

/-- What an FX55 in range leaves, from O31: the stored bytes at I, and every field but memory as it was. -/
theorem execLdMemIVx_stored {x : Reg} {s t : State} (hm : s.memWf) (hin : s.i.toNat + x.val ≤ 0xFFF)
    (h : exec (.ldMemIVx x) s = .next t) :
    (∀ k : Reg, k ≤ x → t.read (s.i.toNat + k.val) = s.reg k) ∧ t = { s with mem := t.mem } := by
  obtain ⟨-, hstore, -⟩ := storeWritesRegisters x s hm
  obtain ⟨u, hu, hread, -, hframe⟩ := hstore hin
  rw [h] at hu
  cases hu
  exact ⟨hread, hframe⟩

/-- Settles O33: the load finds at I the bytes the store wrote there, since the store left I alone. -/
theorem storeThenLoadReproduces : Obligations.StoreThenLoadReproduces := by
  intro x s t hm hin h
  obtain ⟨hread, hframe⟩ := execLdMemIVx_stored hm hin h
  have hi : t.i = s.i := by rw [hframe]
  obtain ⟨-, hload, -⟩ := loadReadsRegisters x { t with v := Vector.replicate 16 0 }
  obtain ⟨u, hu, hloaded, hzero, huframe⟩ := hload (by rw [hi]; exact hin)
  refine ⟨u, hu, fun k hk => ?loaded, fun k hk => ?kept, by rw [huframe]⟩
  case loaded => exact (hloaded k hk).trans (by rw [hi]; exact hread k hk)
  case kept => exact (hzero k hk).trans (Vector.getElem_replicate k.isLt)

/-- Settles O34: I + k and I + k + 1 are both stored bytes, and the address does not wrap. -/
theorem storedBytesAreFetched : Obligations.StoredBytesAreFetched := by
  intro x k s t hm hin hk h
  obtain ⟨hread, -⟩ := execLdMemIVx_stored hm hin h
  have hpc : (s.i + BitVec.ofNat 16 k.val).toNat = s.i.toNat + k.val := by
    rw [BitVec.toNat_add, BitVec.toNat_ofNat]
    omega
  have hnext : (k + 1).val = k.val + 1 := Fin.val_add_one_of_lt (lt_of_lt_of_le hk (Fin.le_last x))
  have hlow : t.read (s.i.toNat + k.val + 1) = s.reg (k + 1) := by
    rw [Nat.add_assoc, ← hnext]
    exact hread (k + 1) (by rw [Fin.le_def, hnext]; exact hk)
  have hfetch := fetch_of_in_range (s := { t with pc := s.i + BitVec.ofNat 16 k.val }) (by rw [hpc]; omega)
  rw [hfetch, hpc]
  exact congrArg some (congrArg₂ (· ++ ·) (hread k (Nat.le_of_lt hk)) hlow)

/-! ### A sprite drawn twice (44_display.md R191) -/

/-- Two states with the same origin registers, I and memory draw the same sprite. -/
theorem spriteOf_congr {x y : Reg} (n : BitVec 4) {s t : State} (hx : t.reg x = s.reg x) (hy : t.reg y = s.reg y)
    (hi : t.i = s.i) (hmem : t.mem = s.mem) (hparams : t.params = s.params) :
    spriteOf x y n t = spriteOf x y n s := by
  rw [spriteOf, spriteOf, State.readBytes, State.readBytes, hx, hy, hi, hmem, hparams]

/-- Each covered pixel is XORed with its bit twice. -/
theorem drawSprite_twice (x y : Reg) (n : BitVec 4) (s : State) (d : Display) :
    (drawSprite (drawSprite d (spriteOf x y n s)).1 (spriteOf x y n s)).1 = d := by
  refine Display.ext_pixel fun px py => ?_
  by_cases hcovered : ∃ r b, r < n.toNat ∧ b < 8 ∧ spritePlace x y s r b = (px, py)
  · obtain ⟨r, b, hr, hb, hplace⟩ := hcovered
    have htwice := drawSprite_covered (drawSprite d (spriteOf x y n s)).1 (x := x) (y := y) (s := s) hr hb
    rw [drawSprite_covered d hr hb, Bool.xor_assoc, Bool.xor_self, Bool.xor_false, hplace] at htwice
    exact htwice
  · have houtside : ∀ r b, r < n.toNat → b < 8 → spritePlace x y s r b ≠ (px, py) := fun r b hr hb hplace =>
      hcovered ⟨r, b, hr, hb, hplace⟩
    rw [drawSprite_other _ houtside, drawSprite_other _ houtside]

/-- The second draw erases exactly the pixels the first one lit. -/
theorem drawSprite_twice_collision (x y : Reg) (n : BitVec 4) (s : State) (d : Display) :
    (drawSprite (drawSprite d (spriteOf x y n s)).1 (spriteOf x y n s)).2 = true ↔ ∃ r b, r < n.toNat ∧ b < 8 ∧
      d.pixel (spritePlace x y s r b).1 (spritePlace x y s r b).2 = false ∧ spriteBit s r b = true := by
  have hlit {dark bit : Bool} : ((dark ^^ bit) = true ∧ bit = true) ↔ dark = false ∧ bit = true := by
    cases dark <;> cases bit <;> decide
  rw [drawSprite_collision]
  constructor
  · rintro ⟨r, hr, b, hb, hcollides⟩
    rw [drawSprite_covered d hr hb, hlit] at hcollides
    exact ⟨r, b, hr, hb, hcollides⟩
  · rintro ⟨r, b, hr, hb, hdark⟩
    refine ⟨r, hr, b, hb, ?_⟩
    rwa [drawSprite_covered d hr hb, hlit]

/-- Settles O37: the first draw leaves the origin registers, I and memory alone, so the second draws the same sprite. -/
theorem drawTwiceRestores : Obligations.DrawTwiceRestores := by
  intro x y n s t hx hy hrange h
  have hin : n.toNat = 0 ∨ s.i.toNat + n.toNat - 1 ≤ 0xFFF := hrange.imp_left (congrArg BitVec.toNat)
  obtain rfl := Host.Outcome.next.inj ((withRange_pos hin).symm.trans h)
  have hsame : spriteOf x y n ((s.setDisplay (drawSprite s.display (spriteOf x y n s)).1).setReg vf
      (boolByte (drawSprite s.display (spriteOf x y n s)).2)) = spriteOf x y n s :=
    spriteOf_congr n (State.reg_setReg_other _ _ hx) (State.reg_setReg_other _ _ hy) rfl rfl rfl
  refine ⟨_, withRange_pos hin, ?restored, ?flag⟩
  case restored =>
    rw [hsame]
    exact drawSprite_twice x y n s s.display
  case flag =>
    rw [hsame, State.reg_setReg_same, boolByte_eq_one_iff]
    exact drawSprite_twice_collision x y n s s.display

end Sys2Proof.Machine
end

section
/-! SUPPORT. The step (10_state.md R44, 40_cycle.md R100): the event it delivers, the instruction it runs, and runs of many
steps at an FX0A that waits and in the faulted state. -/

namespace Sys2Proof.Machine

/-! ### One event -/

/-- Settles O6: the event that is due is the oldest pending one, or with none pending the free one. -/
theorem stepDeliversOldestEvent : Obligations.StepDeliversOldestEvent := by
  intro s t r
  refine ⟨fun e rest hpending hdeliver => ?oldest, fun hnone hhost hdeliver => ?free⟩ <;> apply step_of_deliver
  case oldest => rwa [nextEvent_cons hpending]
  case free => rwa [nextEvent_nil hnone, hhost]

/-- Settles O7: neither taking the due event nor delivering it changes a parameter. -/
theorem parametersNeverChange : Obligations.ParametersNeverChange := by
  refine ⟨rfl, fun s t h => ?_⟩
  obtain ⟨u, r, hdeliver, rfl⟩ := step_cases h
  have hnext : (nextEvent s).2.params = s.params := by rw [nextEvent_frame]
  exact (deliver_params hdeliver).trans hnext

/-! ### One instruction tick -/

/-- A tick returns Unmapped exactly for an unmapped word (40_cycle.md R105). -/
theorem tickResult_eq (op : Word) : tickResult op = if unmappedWord op then .unmapped op else .executed op := by
  have hrow : (decodeWord op).row.isNone = unmappedWord op := by
    rw [Bool.eq_iff_iff, Option.isNone_iff_eq_none, unmappedWord_iff_row]
  rw [tickResult, hrow]

theorem tickResult_of_row {op : Word} {k : Nat} (h : (decodeWord op).row = some k) : tickResult op = .executed op := by
  rw [tickResult, h]; rfl

/-- A step whose event is a tick, from RUNNING with an opcode at PC, runs its instruction and ends the tick. -/
theorem step_of_tick {s t : State} {r : Draw} {op : Word} (hevent : (nextEvent s).1 = .instrTick r)
    (hrun : s.runState = .running) (hfetch : fetch s = some op)
    (hexec : exec (decodeWord op) { (nextEvent s).2 with pc := s.pc + 2, randIn := r } = .next t) :
    step s = recordResult (.next (finishTick op { (nextEvent s).2 with pc := s.pc + 2, randIn := r } t)) := by
  obtain ⟨l, d, hnext⟩ : ∃ l d, (nextEvent s).2 = { s with schedule := l, draws := d } := ⟨_, _, nextEvent_frame s⟩
  rw [step, stepEvent, hevent]
  rw [hnext] at hexec ⊢
  exact congrArg recordResult
    (instrTick_run (s := { s with schedule := l, draws := d, randIn := r }) hrun hfetch hexec)

/-- The end of a tick that did not fault, as the state the host sees (40_cycle.md R100, R107). -/
theorem recordResult_finishTick {op : Word} {u t : State} (hrun : t.runState = .running) :
    recordResult (.next (finishTick op u t)) = .next { t with
      keyWait := if waitsForKey (decodeWord op) u then t.keyWait else false
      lastResult := tickResult op } := by
  rw [finishTick_running hrun]
  split <;> rfl

/-- Settles O5: in each of the three cases the due event is a tick, and `u` is the state its instruction starts in. -/
theorem stepRunsDecodedInstruction : Obligations.StepRunsDecodedInstruction := by
  rintro s u t hi lo i hrun hpc rfl rfl hdecode hu hexec
  have hfetch := fetch_of_in_range hpc
  obtain rfl : decodeWord (s.read s.pc.toNat ++ s.read (s.pc.toNat + 1)) = i :=
    congrArg Prod.fst (Except.ok.inj hdecode)
  obtain ⟨r, hevent, rfl⟩ : ∃ r, (nextEvent s).1 = .instrTick r ∧
      u = { (nextEvent s).2 with pc := s.pc + 2, randIn := r } := by
    rcases hu with ⟨r, rest, hpending, rfl⟩ | ⟨hnone, hhost, rfl⟩ | ⟨r, hnone, hhost, hfree, rfl⟩
    · exact ⟨r, by rw [nextEvent_cons hpending], by rw [nextEvent_cons hpending]⟩
    · exact ⟨.free s.draws, by rw [nextEvent_nil hnone, hhost]; rfl, by rw [nextEvent_nil hnone]⟩
    · exact ⟨r, by rw [nextEvent_nil hnone, hhost]; exact hfree, by rw [nextEvent_nil hnone]⟩
  have hkeys : (nextEvent s).2.keys = s.keys := by rw [nextEvent_frame]
  rw [step_of_tick hevent hrun hfetch hexec]
  refine ⟨fun hfaulted => ?faulted, fun hrunning => ?running⟩
  case faulted => rw [finishTick_faulted hfaulted]; rfl
  case running =>
    simp only [recordResult_finishTick hrunning, tickResult_eq, waitsForKey_iff, hkeys]

/-- Settles O53: the jump puts PC back, and the end of the tick clears a KEY_WAIT that is already 0. -/
theorem parkedTickChangesNothing : Obligations.ParkedTickChangesNothing := by
  rintro s r ⟨hrun, op, nnn, hfetch, hdecode, hself⟩ hwait
  refine ⟨op, hfetch, ?_⟩
  have hjump : exec (.jpNnn nnn) { s with pc := s.pc + 2, randIn := r } =
      .next { s with pc := addr12 nnn, randIn := r } := rfl
  rw [hself, ← hdecode] at hjump
  have htick := instrTick_run (s := { s with randIn := r }) hrun hfetch hjump
  have hresult : tickResult op = .executed op := tickResult_of_row (by rw [hdecode]; rfl)
  have hkept : ({ s with randIn := r } : State).setKeyWait false = { s with randIn := r } := by
    rw [State.setKeyWait, ← hwait]
  rw [deliver, htick, finishTick_running (s2 := { s with randIn := r }) hrun, hresult, hdecode]
  exact congrArg (fun u : State => Host.Outcome.next (u, EventResult.executed op)) hkept

/-! ### Waiting for a key (70_reset_and_hazards.md R268) -/

/-- One tick of a ticking host at an FX0A with no key pressed: PC is advanced and goes back. -/
theorem step_of_waiting {s : State} {op : Word} {x : Reg} (hrun : s.runState = .running) (hnone : s.schedule = [])
    (hhost : s.params.host = .ticks) (hkeys : s.keys = 0) (hfetch : fetch s = some op)
    (hdecode : decodeWord op = .ldVxK x) :
    step s = .next { s with
      keyWait := true, randIn := .free s.draws, draws := s.draws + 1, lastResult := .executed op } := by
  have hnext := nextEvent_nil hnone
  have hevent : (nextEvent s).1 = .instrTick (.free s.draws) := by rw [hnext, hhost]; rfl
  have hback : s.pc + 2 - 2 = s.pc := BitVec.add_sub_cancel s.pc 2
  have hexec : exec (decodeWord op) { (nextEvent s).2 with pc := s.pc + 2, randIn := .free s.draws } = .next { s with
      keyWait := true, randIn := .free s.draws, draws := s.draws + 1 } := by
    have hrewinds := execLdVxK_of_no_key (x := x)
      (s := { s with pc := s.pc + 2, randIn := .free s.draws, draws := s.draws + 1 }) hkeys
    simp only [hback] at hrewinds
    rw [hdecode, hnext]
    exact hrewinds
  have hwaits : waitsForKey (decodeWord op) { (nextEvent s).2 with pc := s.pc + 2, randIn := .free s.draws } = true :=
    waitsForKey_iff.2 ⟨⟨x, hdecode⟩, by rw [hnext]; exact hkeys⟩
  have hresult : tickResult op = .executed op := tickResult_of_row (by rw [hdecode]; rfl)
  rw [step_of_tick hevent hrun hfetch hexec, recordResult_finishTick (by exact hrun), hwaits, if_pos rfl,
    hresult]

/-- Settles O42: each tick finds the state the last one found, but for KEY_WAIT and the model's own fields. -/
theorem busyWaitChangesNothing : Obligations.BusyWaitChangesNothing := by
  intro n
  induction n with
  | zero =>
    intro s op x hrun hnone hhost hkeys hfetch hdecode
    exact run_succ 0 (step_of_waiting hrun hnone hhost hkeys hfetch hdecode)
  | succ n ih =>
    intro s op x hrun hnone hhost hkeys hfetch hdecode
    have hdraws : s.draws + 1 + n = s.draws + (n + 1) := by omega
    rw [run_succ (n + 1) (step_of_waiting hrun hnone hhost hkeys hfetch hdecode),
      ih { s with keyWait := true, randIn := .free s.draws, draws := s.draws + 1, lastResult := .executed op }
        op x hrun hnone hhost hkeys hfetch hdecode]
    simp only [hdraws]

/-! ### The faulted state (60_exceptions.md R234) -/

/-- In FAULTED every event is answered. -/
theorem deliver_next_of_faulted (e : Event) {s : State} (h : s.runState = .faulted) :
    ∃ t r, deliver e s = .next (t, r) := by
  cases e with
  | instrTick r => exact ⟨_, _, deliver_instrTick_halted r h⟩
  | _ => exact ⟨_, _, rfl⟩

/-- Taking the due event takes it off the pending ones. -/
theorem nextEvent_schedule (s : State) : (nextEvent s).2.schedule = s.schedule.tail := by
  cases h : s.schedule with
  | nil => rw [nextEvent_nil h]; exact h
  | cons e rest => rw [nextEvent_cons h]; rfl

/-- With no Reset pending, and a ticking host where nothing is, no Reset is due. -/
theorem nextEvent_ne_reset {s : State} (hreset : Event.reset ∉ s.schedule)
    (hhost : s.schedule = [] → s.params.host = .ticks) : (nextEvent s).1 ≠ .reset := by
  cases h : s.schedule with
  | nil =>
    rw [nextEvent_nil h, hhost h]
    exact Event.noConfusion
  | cons e rest =>
    rw [nextEvent_cons h]
    rintro rfl
    exact hreset (by rw [h]; exact List.mem_cons_self)

/-- A step from FAULTED whose event is no Reset keeps what R234 keeps, and takes one event off the pending ones. -/
theorem step_of_faulted {s : State} (h : s.runState = .faulted) (hevent : (nextEvent s).1 ≠ .reset) :
    ∃ t, step s = .next t ∧ t = { s with
      keys := t.keys, mem := t.mem, loadStatus := t.loadStatus, randIn := t.randIn, draws := t.draws
      lastResult := t.lastResult, schedule := s.schedule.tail } := by
  obtain ⟨d, hnext⟩ : ∃ d, (nextEvent s).2 = { s with schedule := s.schedule.tail, draws := d } :=
    ⟨_, by rw [← nextEvent_schedule]; exact nextEvent_frame s⟩
  have hfaulted : (nextEvent s).2.runState = .faulted := by rw [hnext]; exact h
  obtain ⟨t, r, hdeliver⟩ := deliver_next_of_faulted (nextEvent s).1 hfaulted
  have hframe := deliver_frame_of_faulted hfaulted hevent hdeliver
  rw [hnext] at hframe
  refine ⟨_, step_of_deliver hdeliver, ?_⟩
  rw [hframe]

/-- Settles O48: by induction on the number of steps, the due event being pending or, past the pending ones, a tick. -/
theorem faultedUntilReset : Obligations.FaultedUntilReset := by
  intro n
  induction n with
  | zero => exact fun s h _ _ => ⟨s, rfl, h, rfl, rfl, rfl, rfl⟩
  | succ n ih =>
    intro s h hreset hhost
    have hticks : s.schedule = [] → s.params.host = .ticks := by
      intro hnone
      cases hmode : s.params.host with
      | ticks => rfl
      | unconstrained =>
        have hlength := hhost hmode
        simp [hnone] at hlength
    obtain ⟨t, hstep, hframe⟩ := step_of_faulted h (nextEvent_ne_reset hreset hticks)
    have hrun : t.runState = .faulted := by rw [hframe]; exact h
    have hpending : t.schedule = s.schedule.tail := by rw [hframe]
    have hparams : t.params = s.params := by rw [hframe]
    obtain ⟨u, hruns, hu, hcause, hpc, haddr, hpcKept⟩ := ih t hrun
      (by rw [hpending]; exact fun hmem => hreset (List.mem_of_mem_tail hmem))
      (by rw [hparams, hpending, List.length_tail]; exact fun hmode => Nat.le_sub_one_of_lt (hhost hmode))
    refine ⟨u, (run_succ n hstep).trans hruns, hu, hcause.trans ?_, hpc.trans ?_, haddr.trans ?_, hpcKept.trans ?_⟩ <;>
      rw [hframe]

end Sys2Proof.Machine
end
